-- ==== Sys2Proof/Word.lean ====
section
/-! DEFINITION. The word types of CORE's formats (30_encoding.md R70) and the plain enumerations its state is made of. -/

namespace Sys2Proof

/-- `CODE4`: one ADPCM code (R71). -/
abbrev Code := BitVec 4

/-- `CODEBYTE`, and one byte of a buffer (R73). -/
abbrev Byte := BitVec 8

/-- `SAMPLE16`: a 16-bit pattern read as two's complement (R74). -/
abbrev Sample := BitVec 16

/-- `CMD32` and every interface register (R27, R90). -/
abbrev Word := BitVec 32

/-- The operation of a command: `OP = 0` is DECODE, `OP = 1` is ENCODE (R90). -/
inductive Op where
  | decode
  | encode
deriving DecidableEq, Repr

/-- The three legal channel layouts, of 1, 2 and 4 channels (R7 `LEGAL_CHANNELS`). -/
inductive Layout where
  | mono
  | stereo
  | quad
deriving DecidableEq, Repr

/-- The type of one unit of a buffer: a code byte or a sample (R50). -/
inductive UnitType where
  | code
  | sample
deriving DecidableEq, Repr

/-- The two buffers (R50). -/
inductive Buffer where
  | input
  | output
deriving DecidableEq, Repr

/-- The two agents that take steps (R5). -/
inductive Agent where
  | core
  | host
deriving DecidableEq, Repr

/-- The width of one access of a host on a byte-addressed bus (R56). -/
inductive BusWidth where
  | w8
  | w16
deriving DecidableEq, Repr

end Sys2Proof
end

