-- ==== Sys2Proof/Config.lean ====
section
/-! DEFINITION. The implementation parameters of 00_scope.md R7: what an implementation fixes, and the free values the spec leaves open. -/

namespace Sys2Proof

/-- The step-size ROM: 89 unsigned 16-bit entries (R26, R102 items 1 and 2). -/
structure StepTable where
  entries : Vector (BitVec 16) 89
deriving DecidableEq, Repr

/-- The parameters the model takes as an argument: the step table (R102) and the OPEN largest input length (R7).
They are carried in `State` and no step changes them (log 1). -/
structure Params where
  stepTable : StepTable
  inCapacity : Nat
deriving DecidableEq, Repr

namespace Config

/-- R101, rows 0 to 24. -/
def stepRows0 : List (BitVec 16) :=
  [7, 8, 9, 10, 11, 12, 13, 14] ++ [16, 17, 19, 21, 23, 25, 28, 31] ++
  [34, 37, 41, 45, 50, 55, 60, 66] ++ [73, 80, 88, 97, 107, 118, 130, 143]

/-- R101, rows 32 to 56. -/
def stepRows32 : List (BitVec 16) :=
  [157, 173, 190, 209, 230, 253, 279, 307] ++ [337, 371, 408, 449, 494, 544, 598, 658] ++
  [724, 796, 876, 963, 1060, 1166, 1282, 1411] ++ [1552, 1707, 1878, 2066, 2272, 2499, 2749, 3024]

/-- R101, rows 64 to 88. -/
def stepRows64 : List (BitVec 16) :=
  [3327, 3660, 4026, 4428, 4871, 5358, 5894, 6484] ++ [7132, 7845, 8630, 9493, 10442, 11487, 12635, 13899] ++
  [15289, 16818, 18500, 20350, 22385, 24623, 27086, 29794] ++ [32767]

/-- The default contents of `STEP_TABLE` (R101). UNVERIFIED beyond entry 0: the spec takes it from general knowledge (log 2); unsafe. -/
def defaultStepTable : StepTable :=
  ⟨⟨(stepRows0 ++ stepRows32 ++ stepRows64).toArray, by decide⟩⟩

/-- `INDEX_DELTA` (R7, R103): fixed by the source. -/
def indexDelta : Vector Int 8 := #v[-1, -1, -1, -1, 2, 4, 6, 8]

/-- `IN_CAPACITY - 1`: OPEN within the bounds of R7, so it has no body (log 1). -/
opaque inCapacityLessOne : Fin 2147483647

/-- The implementation's `IN_CAPACITY`, between 1 and 2^31 - 1 (R7, D6). -/
def inCapacity : Nat := inCapacityLessOne.val + 1

/-- The parameters of the machine after reset. -/
def params : Params := { stepTable := defaultStepTable, inCapacity := inCapacity }

/-- The free contents of a buffer byte that nothing defined has been written to (R37, R52, R232, R243; log 6).
The arguments are the buffer, the epoch (how often its contents became unspecified) and the byte's address. -/
opaque unspecifiedByte : Buffer → Nat → Nat → BitVec 8

/-- The free values that host reads of `OUT` give while no value of it is defined for the host (R62, D28; log 22).
The argument is how many such reads came before. -/
opaque undefinedRead : Nat → BitVec 16

/-- The free value of a host local that the host program has not written (R97 gives none; log 14). -/
opaque unsetLocal : Nat → BitVec 32

end Config

end Sys2Proof
end

