-- ==== Sys2Proof/Syntax.lean ====
section
/-! DEFINITION. The commands of CORE: one constructor per row of the opcode map (30_encoding.md R92, opcode_table.json). -/

namespace Sys2Proof

/-- A command the host starts by writing `CMD` (R92). -/
inductive Instr where
  /-- `DEC.MONO` (R190). -/
  | decMono
  /-- `DEC.STEREO` (R191). -/
  | decStereo
  /-- `DEC.QUAD` (R192). -/
  | decQuad
  /-- `ENC.MONO` (R193). -/
  | encMono
  /-- `ENC.STEREO` (R194). -/
  | encStereo
  /-- `ENC.QUAD` (R195). -/
  | encQuad
  /-- `UNSUPPORTED_LAYOUT` (R196): either operation, with the raw channel count the word holds. -/
  | unsupportedLayout (op : Op) (channels : BitVec 8)
deriving DecidableEq, Repr

end Sys2Proof
end

