-- ==== Sys2Proof/WellFormed.lean ====
section
/-! DEFINITION. Which terms of `Instr` are commands of the opcode map (30_encoding.md R92, R94). -/

namespace Sys2Proof

/-- The channel counts that select a `DEC.*` or `ENC.*` row (R7 `LEGAL_CHANNELS`, R91 step 3). -/
def legalChannels (c : BitVec 8) : Bool :=
  c == 1#8 || c == 2#8 || c == 4#8

/-- `UNSUPPORTED_LAYOUT` ranges over every channel count except 1, 2 and 4 (R92); the other rows have no operand. -/
def Instr.wellFormed : Instr → Bool
  | .decMono => true
  | .decStereo => true
  | .decQuad => true
  | .encMono => true
  | .encStereo => true
  | .encQuad => true
  | .unsupportedLayout _ c => !legalChannels c

end Sys2Proof
end

