-- ==== Sys2Proof/Decode.lean ====
section
/-! DEFINITION. Decoding a command word (30_encoding.md R90 to R94), and after it the encoder. -/

namespace Sys2Proof

/-- What a 32-bit command word stands for (R91): a command, or a word with a reserved bit set (R93). -/
inductive Decoded where
  /-- The word selects exactly one row of the opcode map. -/
  | instr (i : Instr)
  /-- Step 1 of R91: a reserved bit is not 0. The host's write of it is refused (`ReservedCommand`). -/
  | reservedCommand
deriving DecidableEq, Repr

/-- `RSV0 = CMD[7:1]` and `RSV1 = CMD[31:16]` (R90): whether either is nonzero. -/
def reservedBitsSet (w : Word) : Bool :=
  w.extractLsb' 1 7 != 0#7 || w.extractLsb' 16 16 != 0#16

/-- `OP = CMD[0]` (R90). -/
def opField (w : Word) : Op :=
  if w.getLsbD 0 then .encode else .decode

/-- `CHANNELS = CMD[15:8]` (R90). -/
def channelsField (w : Word) : BitVec 8 :=
  w.extractLsb' 8 8

/-- The layout of a channel count, where it is legal (R91 step 3). -/
def layoutOfChannels (c : BitVec 8) : Option Layout :=
  if c = 1#8 then some .mono
  else if c = 2#8 then some .stereo
  else if c = 4#8 then some .quad
  else none

/-- The `DEC.*` or `ENC.*` row of an operation and a layout (R92). -/
def Instr.ofCommand : Op → Layout → Instr
  | .decode, .mono => .decMono
  | .decode, .stereo => .decStereo
  | .decode, .quad => .decQuad
  | .encode, .mono => .encMono
  | .encode, .stereo => .encStereo
  | .encode, .quad => .encQuad

/-- Decoding a command word, total: R91 steps 1, 3 and 4. (Step 2 reads `IN_LEN` and is the meaning's.) -/
def decodeWord (w : Word) : Decoded :=
  if reservedBitsSet w then .reservedCommand
  else
    match layoutOfChannels (channelsField w) with
    | some l => .instr (.ofCommand (opField w) l)
    | none => .instr (.unsupportedLayout (opField w) (channelsField w))

/-- `OP` as the bit it has in the word (R90). -/
def Op.bit : Op → BitVec 1
  | .decode => 0#1
  | .encode => 1#1

/-- The channel count of a layout (R7, R34). -/
def Layout.channels : Layout → BitVec 8
  | .mono => 1#8
  | .stereo => 2#8
  | .quad => 4#8

/-- `CMD32` from its fields: `RSV1`, `CHANNELS`, `RSV0`, `OP` from the top bit down (R90). -/
def commandWord (op : Op) (channels : BitVec 8) : Word :=
  (0#16 ++ channels ++ 0#7 ++ op.bit : BitVec (16 + 8 + 7 + 1))

/-- The command word of a command (R92). -/
def encode : Instr → Word
  | .decMono => commandWord .decode 1#8
  | .decStereo => commandWord .decode 2#8
  | .decQuad => commandWord .decode 4#8
  | .encMono => commandWord .encode 1#8
  | .encStereo => commandWord .encode 2#8
  | .encQuad => commandWord .encode 4#8
  | .unsupportedLayout op c => commandWord op c

/-- The host's view of the decoder: the instruction read from the `nbits` low bits of `w` (every format is 32 bits
wide, R99, so the bits above `nbits` are 0). -/
def decodeTableWord (nbits w : Nat) : Option Instr :=
  match decodeWord (BitVec.ofNat 32 (w % 2 ^ nbits)) with
  | .instr i => some i
  | .reservedCommand => none

/-- One row of the opcode map: a word `w` selects it when `w &&& mask = pattern` (R92). -/
structure OpcodeRow where
  mnemonic : String
  pattern : Word
  mask : Word
deriving DecidableEq, Repr

/-- The opcode map of R92, in its order; the last row has the lowest priority. -/
def opcodeMap : List OpcodeRow :=
  [⟨"DEC.MONO", 0x00000100#32, 0xFFFFFFFF#32⟩, ⟨"DEC.STEREO", 0x00000200#32, 0xFFFFFFFF#32⟩,
   ⟨"DEC.QUAD", 0x00000400#32, 0xFFFFFFFF#32⟩, ⟨"ENC.MONO", 0x00000101#32, 0xFFFFFFFF#32⟩,
   ⟨"ENC.STEREO", 0x00000201#32, 0xFFFFFFFF#32⟩, ⟨"ENC.QUAD", 0x00000401#32, 0xFFFFFFFF#32⟩,
   ⟨"UNSUPPORTED_LAYOUT", 0x00000000#32, 0xFFFF00FE#32⟩]

/-- The mnemonic of a command's row (R92). -/
def Instr.mnemonic : Instr → String
  | .decMono => "DEC.MONO"
  | .decStereo => "DEC.STEREO"
  | .decQuad => "DEC.QUAD"
  | .encMono => "ENC.MONO"
  | .encStereo => "ENC.STEREO"
  | .encQuad => "ENC.QUAD"
  | .unsupportedLayout _ _ => "UNSUPPORTED_LAYOUT"

/-- The row a word selects: the first that matches (R92). -/
def selectedRow (w : Word) : Option OpcodeRow :=
  opcodeMap.find? fun r => w &&& r.mask == r.pattern

end Sys2Proof
end

