-- ==== Sys2Proof/Machine/HostSyntax.lean ====
section
/-! DEFINITION. The host-sequence syntax (30_encoding.md R97, R98): the operations a host program is written in. -/

namespace Sys2Proof.Machine

/-- One operation of a host program (R97), with the accesses other rules give the host: the read of `IN` (R241), the
byte-bus accesses (R55, R56) and the reset input (R230). Buffer indices count units; `x` names a host local `xN`. -/
inductive HostOp where
  /-- `WIN i, v`: write input unit `i`. A code byte stands in the low 8 bits of `v` (R50). -/
  | win (i : Nat) (v : BitVec 16)
  /-- `WREG r, v`: write register `r`. -/
  | wreg (r : Nat) (v : Word)
  /-- `RREG xN, r`: read register `r` into a host local. -/
  | rreg (x : Nat) (r : Nat)
  /-- Read input unit `i` into a host local (R241). `ty` is the type the host lays `IN` out with between commands; while a
  command runs its operation sets the type (R50; log 20). -/
  | rin (x : Nat) (ty : UnitType) (i : Nat)
  /-- `ROUT xN, j`: read output unit `j` into a host local. -/
  | rout (x : Nat) (j : Nat)
  /-- `label:`. -/
  | label (n : Nat)
  /-- `BRBIT0 xN, b, label`: continue at the label if bit `b` of the local is 0. -/
  | brbit0 (x : Nat) (b : Nat) (n : Nat)
  /-- `HALT`: the end of the host program. -/
  | halt
  /-- A byte-bus write to `IN` at a byte offset, by a host that lays `IN` out as units of type `ty` (R55, R56; log 20). -/
  | busWriteIn (ty : UnitType) (w : BusWidth) (off : Nat) (v : BitVec 16)
  /-- A byte-bus read of `IN` (R55, R56, R241); `ty` as in `rin`. -/
  | busReadIn (x : Nat) (ty : UnitType) (w : BusWidth) (off : Nat)
  /-- A byte-bus read of `OUT`, whose unit type the latched operation sets (R50, R55, R56). -/
  | busReadOut (x : Nat) (w : BusWidth) (off : Nat)
  /-- The reset input is asserted (R230). -/
  | assertReset
deriving DecidableEq, Repr

/-- `WINS i, [v0, v1, ...]` (R97). -/
def wins : Nat → List (BitVec 16) → List HostOp
  | _, [] => []
  | i, v :: vs => .win i v :: wins (i + 1) vs

/-- The pseudo-operation of a command: the write of its word to `CMD` (R98). -/
def startOp (i : Instr) : HostOp := .wreg 0 (encode i)

/-- `CMDRAW w` (R98). -/
def cmdRaw (w : Word) : HostOp := .wreg 0 w

/-- `WAIT xN` with the fresh label `n`: poll `STATUS` until bit 1 (`DONE`) is set (R98). -/
def wait (x n : Nat) : List HostOp := [.label n, .rreg x 2, .brbit0 x 1 n]

/-- The position of a label in a host program, if it is there. -/
def findLabel : List HostOp → Nat → Option Nat
  | [], _ => none
  | op :: rest, n => if op = .label n then some 0 else (findLabel rest n).map (· + 1)

end Sys2Proof.Machine
end

