-- ==== Sys2Proof/Machine/State.lean ====
section
/-! DEFINITION. The state of the machine (10_state.md, 20_memory.md), the reasons a step can stop, and the state after reset. -/

namespace Sys2Proof.Machine

/-- A buffer's contents: (byte address, byte) pairs, addresses strictly rising. A byte that is not listed has no defined
value. Unit `i` of a buffer is the 16-bit cell at bytes `2i` (bits 7:0) and `2i + 1` (bits 15:8) (R50, R55; log 8). -/
abbrev Memory := List Host.Cell

/-- One predictor slot: `PRED[c]` and `SIDX[c]` (R21). `SIDX` is typed `Fin 89` as R23 allows (log 15). -/
structure Slot where
  pred : Sample
  sidx : Fin 89
deriving DecidableEq, Repr

/-- The host agent: its program, its position in it, its locals (R97), and how far it has come in the START/DONE handshake
(R62; log 22). Not core state. -/
structure HostState where
  program : List HostOp
  hpc : Nat
  locals : List (Nat × Word)
  /-- Whether the host has made a START and has not read `STATUS` with `DONE = 1` since: the time in which R62 gives it no
  defined value of `OUT`. -/
  awaitingDone : Bool
  /-- How many reads of `OUT` the host has made that gave no defined value: the index of the next one's free value. -/
  draws : Nat
deriving DecidableEq, Repr

/-- Everything the spec gives the machine, and the host agent beside it. -/
structure State where
  /-- `STEP_TABLE` and `IN_CAPACITY`: parameters, written by nothing (R7, R26, R102; log 1). -/
  params : Params
  /-- `PRED[0..3]`, `SIDX[0..3]` (R21). -/
  slots : Vector Slot 4
  /-- Register 0, `CMD` (R28). -/
  cmd : Word
  /-- Register 1, `IN_LEN` (R31). -/
  inLen : Word
  /-- Register 2, `STATUS` (R32). -/
  status : Word
  /-- Register 3, `OUT_LEN` (R33). -/
  outLen : Word
  /-- The latched operation `OPL` (R34). -/
  opl : Op
  /-- The latched channel count `CHL` (R34). -/
  chl : Layout
  /-- The latched input length `NL` (R34). -/
  nl : Word
  /-- The unit counter `UCNT` (R30). -/
  ucnt : Word
  /-- The input buffer `IN` (R51). -/
  inp : Memory
  /-- How often the contents of `IN` became unspecified: the index of their free value (log 6). -/
  inpEpoch : Nat
  /-- The output buffer `OUT` (R52). -/
  out : Memory
  /-- How often the contents of `OUT` became unspecified: the index of their free value (log 6, log 7). -/
  outEpoch : Nat
  /-- The host agent (R5, R97). -/
  host : HostState
  /-- Which agent takes each of the next steps (log 9). -/
  schedule : List Agent
deriving DecidableEq, Repr

/-- The accesses that `HostProtocolViolation` records (R204). -/
inductive HostAccess where
  /-- `WriteRegWhileBusy(r)`: a write of register `r` while `BUSY = 1` (R242 item 1). -/
  | writeRegWhileBusy (r : Nat)
  /-- `WriteInWhileBusy(i)`: a write of input unit `i` while `BUSY = 1` (R242 item 2). -/
  | writeInWhileBusy (i : Nat)
  /-- `ReadOutWhileBusy(j)`: a read of output unit `j` while `BUSY = 1` (R242 item 3). -/
  | readOutWhileBusy (j : Nat)
deriving DecidableEq, Repr

/-- Why the machine stops with a fault. -/
inductive Fault where
  /-- Raised by a host access that R242 forbids while `BUSY = 1`. Safe: the spec makes it a fault (R204, D17). -/
  | hostProtocolViolation (a : HostAccess)
  /-- Raised by a host access to a unit outside the extent R50 gives the buffer. Safe: the run stops (log 12). -/
  | noSuchUnit (b : Buffer) (index : Nat)
deriving DecidableEq, Repr

/-- Why a step is refused. -/
inductive Refusal where
  /-- Raised by `exec` for an instruction that has no meaning yet. Safe: the run stops. -/
  | notModelled (mnemonic : String)
  /-- Raised by a START whose word has a nonzero reserved bit (R93, R203). Safe: the run stops, as the spec says. -/
  | reservedCommand
  /-- Raised by a START with `IN_LEN > IN_CAPACITY` (R181, R203). Safe: the run stops, as the spec says. -/
  | inputTooLong
  /-- Raised by a host access to `REG:r` with `r >= 4` (R96, R203). Safe: the run stops, as the spec says. -/
  | reservedRegister (r : Nat)
  /-- Raised by a byte-bus access that is not one whole aligned unit (R56, R203). Safe: the run stops, as the spec says. -/
  | misalignedHostAccess (off : Nat)
  /-- Raised by a host program that branches to a label it does not hold (log 17). Safe: the run stops. -/
  | unknownLabel (n : Nat)
deriving DecidableEq, Repr

/-- The outcome of one step of this machine. -/
abbrev Result := Host.Outcome State Fault Refusal

/-- The predictor slot every accepted START sets (R25), and the model's choice at reset (log 5). -/
def Slot.zero : Slot := { pred := 0#16, sidx := 0 }

/-- The machine right after reset (R37, R230): the four registers are 0. The fields R37 leaves unspecified hold the
values of log 5 (DESIGN CHOICE; unsafe); `IN` and `OUT` list nothing (log 6); the host agent is empty (log 10). -/
def State.reset : State where
  params := Config.params
  slots := Vector.replicate 4 Slot.zero
  cmd := 0#32
  inLen := 0#32
  status := 0#32
  outLen := 0#32
  opl := .decode
  chl := .mono
  nl := 0#32
  ucnt := 0#32
  inp := []
  inpEpoch := 0
  out := []
  outEpoch := 0
  host := { program := [], hpc := 0, locals := [], awaitingDone := false, draws := 0 }
  schedule := []

end Sys2Proof.Machine
end

