-- ==== Sys2Proof/Machine/Operands.lean ====
section
/-! DEFINITION. The operand forms of the data formats: the code nibble (R71, R72), the code byte (R73, R155, R156), the sample (R74), clamping (R10), and the two table lookups (R100, R104). -/

namespace Sys2Proof.Machine

/-- `clamp(x, lo, hi)` (R10). -/
def clamp (x lo hi : Int) : Int := min (max x lo) hi

/-- The integer a sample's pattern stands for, `sext_16` (R9, R74). -/
def sampleValue (p : Sample) : Int := p.toInt

/-- A sample value written as its pattern, `v mod 2^16` (R74). -/
def samplePattern (v : Int) : Sample := BitVec.ofInt 16 v

/-- `LO(b) = b[3:0]`, the first code of a code byte (R73, R156). -/
def lo (b : Byte) : Code := b.extractLsb' 0 4

/-- `HI(b) = b[7:4]`, the second code (R73, R156). -/
def hi (b : Byte) : Code := b.extractLsb' 4 4

/-- `PACK(lo, hi) = {hi, lo}` (R73, R155). -/
def pack (l h : Code) : Byte := h ++ l

/-- `STEP(i) = STEP_TABLE[i]`, as the unsigned integer it is (R100). -/
def stepSize (T : StepTable) (i : Fin 89) : Nat := T.entries[i].toNat

/-- The magnitude selector `code & 7 = code[2:0]` (R71). -/
def selector (k : Code) : Fin 8 := (k.extractLsb' 0 3).toFin

/-- `DELTA(k) = INDEX_DELTA[k & 7]` (R104). -/
def indexStep (k : Code) : Int := Config.indexDelta[selector k]

/-- `mag(k, step)` (R72). -/
def mag (k : Code) (step : Nat) : Nat :=
  (step >>> 3) + (if k.getLsbD 0 then step >>> 2 else 0) + (if k.getLsbD 1 then step >>> 1 else 0) +
    (if k.getLsbD 2 then step else 0)

/-- `sdiff(k, step)`: the magnitude, negated if the sign bit is set (R72). -/
def signedDiff (k : Code) (step : Nat) : Int :=
  if k.getLsbD 3 then -(mag k step : Int) else (mag k step : Int)

/-- The index a clamp to `0..88` leaves (R112). -/
def clampIndex (x : Int) : Fin 89 :=
  ⟨(clamp x 0 88).toNat, by unfold clamp; omega⟩

/-- The 16-bit cell of a buffer as a host local reads it: a code byte is zero-extended from its low 8 bits, a sample is
sign-extended ("Samples are signed decimal", R97; R50, R74; log 14). -/
def unitWord (ty : UnitType) (cell : BitVec 16) : Word :=
  match ty with
  | .code => (cell.extractLsb' 0 8).setWidth 32
  | .sample => cell.signExtend 32

/-- The unit type of `IN` under a latched operation (R50). -/
def inType : Op → UnitType
  | .decode => .code
  | .encode => .sample

/-- The unit type of `OUT` under a latched operation (R50). -/
def outType : Op → UnitType
  | .decode => .sample
  | .encode => .code

/-- The unit a byte-bus access reaches, where it is one whole aligned unit: a code byte by an 8-bit access at its own
offset, sample `k` by a 16-bit access at byte `2k` (R55, R56). -/
def busUnit (ty : UnitType) (w : BusWidth) (off : Nat) : Option Nat :=
  match ty, w with
  | .code, .w8 => some off
  | .code, .w16 => none
  | .sample, .w8 => none
  | .sample, .w16 => if off % 2 = 0 then some (off / 2) else none

end Sys2Proof.Machine
end

