-- ==== Sys2Proof/Machine/Codec.lean ====
section
/-! DEFINITION. The sample codec on one predictor slot (41_sample_codec.md R110 to R122). The step table is an argument, as R102 asks. Intermediate sums are exact integers (R8, R130, R131). -/

namespace Sys2Proof.Machine

/-- `DIFF(c, k)`: the reconstructed difference, from the slot's step before any update (R111). -/
def diff (T : StepTable) (sl : Slot) (k : Code) : Int :=
  signedDiff k (stepSize T sl.sidx)

/-- `UPDATE(c, k)`: the state update decode and encode share; both reads come before both writes (R112). -/
def update (T : StepTable) (sl : Slot) (k : Code) : Slot where
  pred := samplePattern (clamp (sampleValue sl.pred + diff T sl k) (-32768) 32767)
  sidx := clampIndex (sl.sidx.val + indexStep k)

/-- `DECODE_SAMPLE(c, k)`: the sample it returns and the slot it leaves (R113). -/
def decodeSample (T : StepTable) (sl : Slot) (k : Code) : Sample × Slot :=
  ((update T sl k).pred, update T sl k)

/-- The locals of `ENCODE_SAMPLE` between its bit tests: `k`, `delta` and `acc` (R120). -/
structure Quantised where
  code : Code
  residual : Nat
  acc : Nat
deriving DecidableEq, Repr

/-- One bit test of `ENCODE_SAMPLE`: `delta >= threshold` sets the bit, an equal residual too (R120, R121; log 3). -/
def bitTest (bit : Code) (threshold : Nat) (q : Quantised) : Quantised :=
  if q.residual ≥ threshold then
    { code := q.code ||| bit, residual := q.residual - threshold, acc := q.acc + threshold }
  else q

/-- The sign test of `ENCODE_SAMPLE`, with `acc` started at `step >> 3` (R120). -/
def signTest (step : Nat) (delta : Int) : Quantised :=
  if delta < 0 then { code := 8#4, residual := (-delta).toNat, acc := step >>> 3 }
  else { code := 0#4, residual := delta.toNat, acc := step >>> 3 }

/-- The code of a difference, by the three greedy tests of `ENCODE_SAMPLE` (R120). -/
def quantise (step : Nat) (delta : Int) : Quantised :=
  bitTest 1#4 (step >>> 2) (bitTest 2#4 (step >>> 1) (bitTest 4#4 step (signTest step delta)))

/-- The code `ENCODE_SAMPLE` returns for sample `x` in a slot (R120). -/
def encodeCode (T : StepTable) (sl : Slot) (x : Sample) : Code :=
  (quantise (stepSize T sl.sidx) (sampleValue x - sampleValue sl.pred)).code

/-- `ENCODE_SAMPLE(c, x)`: the code it returns and the slot it leaves, by the same update as decode (R120, R122). -/
def encodeSample (T : StepTable) (sl : Slot) (x : Sample) : Code × Slot :=
  (encodeCode T sl x, update T sl (encodeCode T sl x))

end Sys2Proof.Machine
end

