-- ==== Sys2Proof/Machine/Flags.lean ====
section
/-! DEFINITION. The flags: the fields of `STATUS` (10_state.md R32). CORE has no other flag (R35). -/

namespace Sys2Proof.Machine

/-- The `STATUS` word with the given fields; bits 31:5 are 0 (R32). -/
def statusWord (busy done : Bool) (err : BitVec 2) (trunc : Bool) : Word :=
  (0#27 ++ BitVec.ofBool trunc ++ err ++ BitVec.ofBool done ++ BitVec.ofBool busy : BitVec (27 + 1 + 2 + 1 + 1))

/-- `BUSY` (R32 bit 0). -/
def State.busy (s : State) : Bool := s.status.getLsbD 0

/-- `DONE` (R32 bit 1). -/
def State.done (s : State) : Bool := s.status.getLsbD 1

/-- `ERR` (R32 bits 3:2). -/
def State.err (s : State) : BitVec 2 := s.status.extractLsb' 2 2

/-- `TRUNC` (R32 bit 4). -/
def State.trunc (s : State) : Bool := s.status.getLsbD 4

/-- `STATUS` while a command executes (R183). -/
def busyStatus : Word := statusWord true false 0#2 false

/-- `STATUS` after a completion (R184). -/
def doneStatus (truncated : Bool) : Word := statusWord false true 0#2 truncated

/-- `STATUS` after `UnsupportedChannelLayout` (R182, R200). -/
def unsupportedStatus : Word := statusWord false true 1#2 false

/-- The words R205 and R37 let `STATUS` hold: idle after reset, executing, and the three completions. -/
def legalStatus (w : Word) : Bool :=
  w == 0#32 || w == busyStatus || w == doneStatus false || w == doneStatus true || w == unsupportedStatus

end Sys2Proof.Machine
end

