-- ==== Sys2Proof/Machine/Framer.lean ====
section
/-! DEFINITION. The framer's counts and geometry (42_channel_framer.md R141 to R147, R150, R153). The literals 16384 and 8192 are `QUAD_BLOCK_BYTES` and `QUAD_HALF_BYTES` (R7). -/

namespace Sys2Proof.Machine

/-- The unit count `U` of a command with input length `n` (R142). -/
def unitCount : Op → Layout → Nat → Nat
  | .decode, .mono, n => n
  | .decode, .stereo, n => n
  | .decode, .quad, n => 8192 * (n / 16384) + (n % 16384) / 2
  | .encode, .mono, n => n / 2
  | .encode, .stereo, n => n / 2
  | .encode, .quad, n => n / 4

/-- The truncation flag `T` (R142). -/
def truncated : Op → Layout → Nat → Bool
  | .decode, .mono, _ => false
  | .decode, .stereo, _ => false
  | .decode, .quad, n => (n % 16384) % 2 == 1
  | .encode, .mono, n => n % 2 == 1
  | .encode, .stereo, n => n % 2 == 1
  | .encode, .quad, n => n % 4 != 0

/-- The input units one unit reads (R141). -/
def inPerUnit : Op → Layout → Nat
  | .decode, .mono => 1
  | .decode, .stereo => 1
  | .decode, .quad => 2
  | .encode, .mono => 2
  | .encode, .stereo => 2
  | .encode, .quad => 4

/-- The output units one unit writes (R141). -/
def outPerUnit : Op → Layout → Nat
  | .decode, .mono => 2
  | .decode, .stereo => 2
  | .decode, .quad => 4
  | .encode, .mono => 1
  | .encode, .stereo => 1
  | .encode, .quad => 2

/-- `OUT_LEN` at completion (R143): `2U`, `4U`, `U` or `2U`. -/
def outLength (op : Op) (l : Layout) (n : Nat) : Nat :=
  outPerUnit op l * unitCount op l n

/-- The number `B` of full blocks of a quad stream: of the input for DECODE (R142), of the output for ENCODE (R153). -/
def fullBlocks : Op → Nat → Nat
  | .decode, n => n / 16384
  | .encode, n => (n / 4) / 8192

/-- The half length of the final partial block, `h` for DECODE (R142) and `r` for ENCODE (R153). The split at the
midpoint is `QUAD_TAIL_LAYOUT = HALF_SPLIT` (R150; log 4). -/
def tailHalf : Op → Nat → Nat
  | .decode, n => (n % 16384) / 2
  | .encode, n => (n / 4) % 8192

/-- `half(β)` (R146). -/
def halfLength (op : Op) (n β : Nat) : Nat :=
  if β < fullBlocks op n then 8192 else tailHalf op n

/-- `LR(g)`, the index of group `g`'s (L, R) byte (R147). -/
def lrIndex (g : Nat) : Nat := 16384 * (g / 8192) + g % 8192

/-- `CL(g)`, the index of group `g`'s (C, LFE) byte (R147). -/
def clIndex (op : Op) (n g : Nat) : Nat :=
  16384 * (g / 8192) + halfLength op n (g / 8192) + g % 8192

end Sys2Proof.Machine
end

