-- ==== Sys2Proof/Machine/Ops.lean ====
section
/-! DEFINITION. The named operations over the buffers, the registers and the predictor slots, and the shared steps of a command's life: acceptance (R183), completion (R184), the error completion (R182), reset (R230). -/

namespace Sys2Proof.Machine

/-! ## Sorted lists of (key, value) pairs -/

/-- The value listed at a key. -/
def lookupAt {α : Type} : List (Nat × α) → Nat → Option α
  | [], _ => none
  | (k, v) :: rest, a => if k = a then some v else lookupAt rest a

/-- The list with the value at a key set, keeping the keys rising. -/
def insertAt {α : Type} : List (Nat × α) → Nat → α → List (Nat × α)
  | [], a, v => [(a, v)]
  | (k, w) :: rest, a, v =>
    if a < k then (a, v) :: (k, w) :: rest
    else if a = k then (a, v) :: rest
    else (k, w) :: insertAt rest a v

/-- The canonical form: keys strictly rising. -/
def sorted {α : Type} : List (Nat × α) → Bool
  | [] => true
  | [_] => true
  | (k, _) :: (k', w) :: rest => decide (k < k') && sorted ((k', w) :: rest)

/-- The canonical form of a buffer. An unlisted address has no defined value, so no entry can equal it (log 6). -/
def Memory.wf (m : Memory) : Bool := sorted m

/-! ## The buffers -/

/-- One byte of `IN`: what is listed, else the free contents of this epoch (R37, R232; log 6). -/
def State.inByte (s : State) (a : Nat) : Byte :=
  (lookupAt s.inp a).getD (Config.unspecifiedByte .input s.inpEpoch a)

/-- One byte of `OUT`: what is listed, else the free contents of this epoch (R52, R243; log 6). -/
def State.outByte (s : State) (a : Nat) : Byte :=
  (lookupAt s.out a).getD (Config.unspecifiedByte .output s.outEpoch a)

/-- The 16-bit cell of input unit `i` (R50, R55). -/
def State.inCell (s : State) (i : Nat) : BitVec 16 := s.inByte (2 * i + 1) ++ s.inByte (2 * i)

/-- The 16-bit cell of output unit `j` (R50, R55). -/
def State.outCell (s : State) (j : Nat) : BitVec 16 := s.outByte (2 * j + 1) ++ s.outByte (2 * j)

/-- `MemRead(IN:i, 1)` of DECODE: a code byte is the low 8 bits of its cell (R50, R51). -/
def State.readCode (s : State) (i : Nat) : Byte := s.inByte (2 * i)

/-- `MemRead(IN:i, 1)` of ENCODE: a sample is its whole cell (R50, R51). -/
def State.readSample (s : State) (i : Nat) : Sample := s.inCell i

/-- `MemWrite(OUT:j, 1, v)` of DECODE: a sample (R52). -/
def State.writeSample (s : State) (j : Nat) (v : Sample) : State :=
  { s with out := insertAt (insertAt s.out (2 * j) (v.extractLsb' 0 8)) (2 * j + 1) (v.extractLsb' 8 8) }

/-- `MemWrite(OUT:j, 1, b)` of ENCODE: a code byte, in the low 8 bits of its cell (R50, R52). -/
def State.writeCode (s : State) (j : Nat) (b : Byte) : State :=
  { s with out := insertAt s.out (2 * j) b }

/-- `MemWrite(IN:i, 1, v)` by the host: the whole cell (R50, R97). -/
def State.writeInCell (s : State) (i : Nat) (v : BitVec 16) : State :=
  { s with inp := insertAt (insertAt s.inp (2 * i) (v.extractLsb' 0 8)) (2 * i + 1) (v.extractLsb' 8 8) }

/-- A byte-bus write of one code byte to `IN`: the low 8 bits of its cell (R55, R57). -/
def State.writeInByte (s : State) (i : Nat) (b : Byte) : State :=
  { s with inp := insertAt s.inp (2 * i) b }

/-- `OUT` has no defined contents from here on: any value (R52, R231, R243; log 7). -/
def State.forgetOut (s : State) : State :=
  { s with out := [], outEpoch := s.outEpoch + 1 }

/-- `IN` has no defined contents from here on: any value (R232; log 6). -/
def State.forgetIn (s : State) : State :=
  { s with inp := [], inpEpoch := s.inpEpoch + 1 }

/-! ## The predictor slots and the sample codec on them -/

/-- The slot `c` (R21). -/
def State.slot (s : State) (c : Fin 4) : Slot := s.slots[c]

/-- The state with slot `c` written. -/
def State.setSlot (s : State) (c : Fin 4) (v : Slot) : State :=
  { s with slots := s.slots.set c v }

/-- `DEC(c, k)` of the framer: the sample, and the state with slot `c` updated (R113). -/
def State.dec (s : State) (c : Fin 4) (k : Code) : Sample × State :=
  ((decodeSample s.params.stepTable (s.slot c) k).1, s.setSlot c (decodeSample s.params.stepTable (s.slot c) k).2)

/-- `ENC(c, x)` of the framer: the code, and the state with slot `c` updated (R120). -/
def State.enc (s : State) (c : Fin 4) (x : Sample) : Code × State :=
  ((encodeSample s.params.stepTable (s.slot c) x).1, s.setSlot c (encodeSample s.params.stepTable (s.slot c) x).2)

/-! ## The life of a command -/

/-- The accepted START of a `DEC.*` or `ENC.*` command: `CMD` holds its word (R180), the command is latched, every slot
and `UCNT` are 0, `BUSY` is set and `OUT_LEN` is 0 (R25, R34, R183). `OUT` has no defined contents from here (R243). -/
def State.accept (s : State) (op : Op) (l : Layout) : State :=
  { s.forgetOut with
    cmd := encode (.ofCommand op l)
    opl := op
    chl := l
    nl := s.inLen
    slots := Vector.replicate 4 Slot.zero
    ucnt := 0#32
    status := busyStatus
    outLen := 0#32 }

/-- The completion step (R184): `OUT_LEN` by R143, `DONE` set, `TRUNC` by R142. -/
def State.complete (s : State) (op : Op) (l : Layout) : State :=
  { s with
    outLen := BitVec.ofNat 32 (outLength op l s.nl.toNat)
    status := doneStatus (truncated op l s.nl.toNat) }

/-- The error completion `UnsupportedChannelLayout`, the one place an error is taken (R182, R200, R207): `CMD` holds the
word (R180), `STATUS` is 0x00000006 and `OUT_LEN` is 0. Nothing else changes: no latch, no slot, no buffer. -/
def State.raiseUnsupportedLayout (s : State) (op : Op) (channels : BitVec 8) : State :=
  { s with
    cmd := encode (.unsupportedLayout op channels)
    status := unsupportedStatus
    outLen := 0#32 }

/-- `UCNT <- UCNT + 1` (R160). -/
def State.advanceUnit (s : State) : State := { s with ucnt := s.ucnt + 1#32 }

/-- The sequencer step: one unit while `UCNT < U`, else the completion (R160). -/
def sequencer (op : Op) (l : Layout) (unit : State → Nat → State) (s : State) : Result :=
  if s.ucnt.toNat < unitCount op l s.nl.toNat then .next (unit s s.ucnt.toNat).advanceUnit
  else .next (s.complete op l)

/-- One step of the life of a `DEC.*` or `ENC.*` command, given what it does with one unit (log 11).
While the core is idle it is the START: refused if the input is too long (R181), else accepted (R183).
While the core runs this command it is the sequencer step (R160).
While the core runs another command it is a second START, a write of `CMD` that R242 forbids (R206). -/
def command (op : Op) (l : Layout) (unit : State → Nat → State) (s : State) : Result :=
  if s.busy then
    if s.opl = op ∧ s.chl = l then sequencer op l unit s
    else .fault (.hostProtocolViolation (.writeRegWhileBusy 0))
  else if s.inLen.toNat > s.params.inCapacity then .refused .inputTooLong
  else .next (s.accept op l)

/-- The reset input on the core (R230, R231): every register at the value of R37, a running command abandoned, `IN` and
`OUT` unspecified (R231, R232). The fields R37 leaves unspecified hold the values of `State.reset` (log 5). -/
def State.resetCore (s : State) : State :=
  { s.forgetIn.forgetOut with
    slots := State.reset.slots
    cmd := 0#32
    inLen := 0#32
    status := 0#32
    outLen := 0#32
    opl := State.reset.opl
    chl := State.reset.chl
    nl := State.reset.nl
    ucnt := State.reset.ucnt }

/-- The interface registers by number (R27, R53); numbers 4 and above are no register (R96). -/
def State.readReg (s : State) : Nat → Option Word
  | 0 => some s.cmd
  | 1 => some s.inLen
  | 2 => some s.status
  | 3 => some s.outLen
  | _ => none

/-- A host local (log 14). -/
def State.hostLocal (s : State) (x : Nat) : Word := (lookupAt s.host.locals x).getD (Config.unsetLocal x)

/-- `xN <- v` (R97). -/
def State.setHostLocal (s : State) (x : Nat) (v : Word) : State :=
  { s with host := { s.host with locals := insertAt s.host.locals x v } }

/-- The host has read register `r`: a read of `STATUS` with `DONE = 1` completes the handshake of R62 (log 22). -/
def State.noteRead (s : State) (r : Nat) : State :=
  { s with host := { s.host with awaitingDone := s.host.awaitingDone && !(r == 2 && s.done) } }

/-- A START: the host has yet to read `STATUS` with `DONE = 1` (R62; log 22). -/
def State.openHandshake (s : State) : State :=
  { s with host := { s.host with awaitingDone := true } }

/-- A reset: no START is left that the host could see completed (R231; log 22). -/
def State.closeHandshake (s : State) : State :=
  { s with host := { s.host with awaitingDone := false } }

/-- The host has read one value that nothing defines (log 22). -/
def State.countDraw (s : State) : State :=
  { s with host := { s.host with draws := s.host.draws + 1 } }

/-- The host goes on to its next operation. -/
def State.advanceHost (s : State) : State :=
  { s with host := { s.host with hpc := s.host.hpc + 1 } }

/-- The host goes on at a position of its program. -/
def State.jumpHost (s : State) (at' : Nat) : State :=
  { s with host := { s.host with hpc := at' } }

end Sys2Proof.Machine
end

