-- ==== Sys2Proof/Machine/Decoder.lean ====
section
/-! DEFINITION. The DECODE commands: their units (42_channel_framer.md R144, R145, R148) and their meanings (43_codec_facade.md R190 to R192). -/

namespace Sys2Proof.Machine

/-- Unit `u` of `DEC.MONO` (R144, R158): both codes of byte `u` on slot 0, the low nibble first. -/
def decMonoUnit (s : State) (u : Nat) : State :=
  let b := s.readCode u
  let r0 := s.dec 0 (lo b)
  let r1 := r0.2.dec 0 (hi b)
  (r1.2.writeSample (2 * u) r0.1).writeSample (2 * u + 1) r1.1

/-- Unit `u` of `DEC.STEREO` (R145, R158): the low nibble on slot 0, the high nibble on slot 1. -/
def decStereoUnit (s : State) (u : Nat) : State :=
  let b := s.readCode u
  let l := s.dec 0 (lo b)
  let r := l.2.dec 1 (hi b)
  (r.2.writeSample (2 * u) l.1).writeSample (2 * u + 1) r.1

/-- Unit `g` of `DEC.QUAD` (R148, R158): an (L, R) byte and a (C, LFE) byte on slots 0 to 3. -/
def decQuadUnit (s : State) (g : Nat) : State :=
  let bLR := s.readCode (lrIndex g)
  let bCL := s.readCode (clIndex .decode s.nl.toNat g)
  let sL := s.dec 0 (lo bLR)
  let sR := sL.2.dec 1 (hi bLR)
  let sC := sR.2.dec 2 (lo bCL)
  let sF := sC.2.dec 3 (hi bCL)
  (((sF.2.writeSample (4 * g) sL.1).writeSample (4 * g + 1) sR.1).writeSample (4 * g + 2) sC.1).writeSample
    (4 * g + 3) sF.1

/-- `DEC.MONO` (R190). -/
def execDecMono (s : State) : Result := command .decode .mono decMonoUnit s

/-- `DEC.STEREO` (R191). -/
def execDecStereo (s : State) : Result := command .decode .stereo decStereoUnit s

/-- `DEC.QUAD` (R192). -/
def execDecQuad (s : State) : Result := command .decode .quad decQuadUnit s

end Sys2Proof.Machine
end

