-- ==== Sys2Proof/Machine/Encoder.lean ====
section
/-! DEFINITION. The ENCODE commands: their units (42_channel_framer.md R151, R152, R154) and their meanings (43_codec_facade.md R193 to R195). -/

namespace Sys2Proof.Machine

/-- Unit `u` of `ENC.MONO` (R151, R158): two consecutive samples on slot 0, the first in the low nibble. -/
def encMonoUnit (s : State) (u : Nat) : State :=
  let x0 := s.readSample (2 * u)
  let x1 := s.readSample (2 * u + 1)
  let k0 := s.enc 0 x0
  let k1 := k0.2.enc 0 x1
  k1.2.writeCode u (pack k0.1 k1.1)

/-- Unit `u` of `ENC.STEREO` (R152, R158): an (L, R) pair on slots 0 and 1. -/
def encStereoUnit (s : State) (u : Nat) : State :=
  let xL := s.readSample (2 * u)
  let xR := s.readSample (2 * u + 1)
  let kL := s.enc 0 xL
  let kR := kL.2.enc 1 xR
  kR.2.writeCode u (pack kL.1 kR.1)

/-- Unit `g` of `ENC.QUAD` (R154, R158): an (L, R, C, LFE) group on slots 0 to 3, into its two bytes (R147, R153). -/
def encQuadUnit (s : State) (g : Nat) : State :=
  let xL := s.readSample (4 * g)
  let xR := s.readSample (4 * g + 1)
  let xC := s.readSample (4 * g + 2)
  let xF := s.readSample (4 * g + 3)
  let kL := s.enc 0 xL
  let kR := kL.2.enc 1 xR
  let kC := kR.2.enc 2 xC
  let kF := kC.2.enc 3 xF
  (kF.2.writeCode (lrIndex g) (pack kL.1 kR.1)).writeCode (clIndex .encode s.nl.toNat g) (pack kC.1 kF.1)

/-- `ENC.MONO` (R193). -/
def execEncMono (s : State) : Result := command .encode .mono encMonoUnit s

/-- `ENC.STEREO` (R194). -/
def execEncStereo (s : State) : Result := command .encode .stereo encStereoUnit s

/-- `ENC.QUAD` (R195). -/
def execEncQuad (s : State) : Result := command .encode .quad encQuadUnit s

end Sys2Proof.Machine
end

