-- ==== Sys2Proof/Machine/Rejection.lean ====
section
/-! DEFINITION. The command `UNSUPPORTED_LAYOUT` (43_codec_facade.md R182, R196). -/

namespace Sys2Proof.Machine

/-- `UNSUPPORTED_LAYOUT` (R196): refused if the input is too long (R181, R206), else the error completion in the START
step (R182). It never runs in later steps, so while the core is busy it can only be a second START (R206, R242). -/
def execUnsupportedLayout (op : Op) (channels : BitVec 8) (s : State) : Result :=
  if s.busy then .fault (.hostProtocolViolation (.writeRegWhileBusy 0))
  else if s.inLen.toNat > s.params.inCapacity then .refused .inputTooLong
  else .next (s.raiseUnsupportedLayout op channels)

end Sys2Proof.Machine
end

