-- ==== Sys2Proof/Machine/Dispatch.lean ====
section
/-! DEFINITION. One arm per command of the opcode map. -/

namespace Sys2Proof.Machine

def exec (i : Instr) (s : State) : Host.Outcome State Fault Refusal :=
  match i with
  | .decMono => Sys2Proof.Machine.execDecMono s
  | .decStereo => Sys2Proof.Machine.execDecStereo s
  | .decQuad => Sys2Proof.Machine.execDecQuad s
  | .encMono => Sys2Proof.Machine.execEncMono s
  | .encStereo => Sys2Proof.Machine.execEncStereo s
  | .encQuad => Sys2Proof.Machine.execEncQuad s
  | .unsupportedLayout op channels => Sys2Proof.Machine.execUnsupportedLayout op channels s

end Sys2Proof.Machine
end

