-- ==== Sys2Proof/Machine/HostAgent.lean ====
section
/-! DEFINITION. The turns of the two agents (00_scope.md R5): the host's operations (30_encoding.md R97) with the checks of 60_exceptions.md R203, R204 and 70_reset_and_hazards.md R241, R242, and the core's turn (42_channel_framer.md R160). -/

namespace Sys2Proof.Machine

/-- The largest `IN` index plus one (R50). -/
def State.inExtent (s : State) : Nat := s.params.inCapacity

/-- The largest `OUT` index plus one (R50). -/
def State.outExtent (s : State) : Nat := 2 * s.params.inCapacity

/-- START: the write of `w` to `CMD` while the core is idle (R91, R180, R181). -/
def startCommand (w : Word) (s : State) : Result :=
  match decodeWord w with
  | .reservedCommand => .refused .reservedCommand
  | .instr i => exec i s

/-- A host write of register `r` (R28, R29, R53, R96, R242 item 1). A START opens the handshake of R62 (log 22). -/
def hostWriteReg (r : Nat) (v : Word) (s : State) : Result :=
  if r ≥ 4 then .refused (.reservedRegister r)
  else if s.busy then .fault (.hostProtocolViolation (.writeRegWhileBusy r))
  else if r = 0 then startCommand v s.openHandshake
  else if r = 1 then .next { s with inLen := v }
  else .next s

/-- A host read of register `r` into a local; allowed at any time (R29, R96, R241). It gives what the register holds (R32,
R33). The spec leaves open what `OUT_LEN` shows after a completion the host has not yet read as `DONE = 1` (R62 item 2, D28):
the final value at once is the model's choice (log 22). `ERR` and `TRUNC` come in the word that shows `DONE`. -/
def hostReadReg (x r : Nat) (s : State) : Result :=
  match s.readReg r with
  | some v => .next ((s.noteRead r).setHostLocal x v)
  | none => .refused (.reservedRegister r)

/-- A host write of input unit `i` that is the given update (R50, R242 item 2; log 12, log 13). -/
def hostWriteIn (i : Nat) (write : State → State) (s : State) : Result :=
  if i ≥ s.inExtent then .fault (.noSuchUnit .input i)
  else if s.busy then .fault (.hostProtocolViolation (.writeInWhileBusy i))
  else .next (write s)

/-- The type of the units of `IN`: while a command runs, that of the latched operation (R50); between commands, the one the
host lays its input out with for the next command, whose operation is not latched yet (R234, R37; log 20). -/
def State.inUnitType (s : State) (ty : UnitType) : UnitType :=
  if s.busy then inType s.opl else ty

/-- A host read of input unit `i` into a local; allowed at any time (R241). -/
def hostReadIn (x : Nat) (ty : UnitType) (i : Nat) (s : State) : Result :=
  if i ≥ s.inExtent then .fault (.noSuchUnit .input i)
  else .next (s.setHostLocal x (unitWord (s.inUnitType ty) (s.inCell i)))

/-- A host read of output unit `j` into a local; the latched operation sets its type (R50, R242 item 3). Between
START and its read of `STATUS` with `DONE = 1` the host sees no defined `OUT` value, also when the command has completed
(R62, D28): the read then gives a free value, a new one each time, which is the model's form of it (log 22). -/
def hostReadOut (x j : Nat) (s : State) : Result :=
  if j ≥ s.outExtent then .fault (.noSuchUnit .output j)
  else if s.busy then .fault (.hostProtocolViolation (.readOutWhileBusy j))
  else if s.host.awaitingDone then
    .next (s.countDraw.setHostLocal x (unitWord (outType s.opl) (Config.undefinedRead s.host.draws)))
  else .next (s.setHostLocal x (unitWord (outType s.opl) (s.outCell j)))

/-- A byte-bus write to `IN` (R55, R56): refused unless it is one whole aligned unit. -/
def hostBusWriteIn (ty : UnitType) (w : BusWidth) (off : Nat) (v : BitVec 16) (s : State) : Result :=
  match busUnit (s.inUnitType ty) w off with
  | none => .refused (.misalignedHostAccess off)
  | some i =>
    match s.inUnitType ty with
    | .code => hostWriteIn i (fun s => s.writeInByte i (v.extractLsb' 0 8)) s
    | .sample => hostWriteIn i (fun s => s.writeInCell i v) s

/-- A byte-bus read of `IN` (R55, R56). -/
def hostBusReadIn (x : Nat) (ty : UnitType) (w : BusWidth) (off : Nat) (s : State) : Result :=
  match busUnit (s.inUnitType ty) w off with
  | none => .refused (.misalignedHostAccess off)
  | some i => hostReadIn x ty i s

/-- A byte-bus read of `OUT` (R55, R56). -/
def hostBusReadOut (x : Nat) (w : BusWidth) (off : Nat) (s : State) : Result :=
  match busUnit (outType s.opl) w off with
  | none => .refused (.misalignedHostAccess off)
  | some j => hostReadOut x j s

/-- `BRBIT0 xN, b, label` (R97), from the state in which the host has gone on to the next operation. -/
def hostBranch (x b n : Nat) (s : State) : Result :=
  if (s.hostLocal x).getLsbD b then .next s
  else
    match findLabel s.host.program n with
    | some p => .next (s.jumpHost p)
    | none => .refused (.unknownLabel n)

/-- One operation of the host program (R97). Every operation but `HALT` goes on to the next one. -/
def hostStep (op : HostOp) (s : State) : Result :=
  match op with
  | .win i v => hostWriteIn i (fun s => s.writeInCell i v) s.advanceHost
  | .wreg r v => hostWriteReg r v s.advanceHost
  | .rreg x r => hostReadReg x r s.advanceHost
  | .rin x ty i => hostReadIn x ty i s.advanceHost
  | .rout x j => hostReadOut x j s.advanceHost
  | .label _ => .next s.advanceHost
  | .brbit0 x b n => hostBranch x b n s.advanceHost
  | .halt => .next s
  | .busWriteIn ty w off v => hostBusWriteIn ty w off v s.advanceHost
  | .busReadIn x ty w off => hostBusReadIn x ty w off s.advanceHost
  | .busReadOut x w off => hostBusReadOut x w off s.advanceHost
  | .assertReset => .next s.advanceHost.closeHandshake.resetCore

/-- The operation the host is at, if its program has not ended. -/
def State.hostOp (s : State) : Option HostOp := s.host.program[s.host.hpc]?

/-- The host's turn. A host whose program has ended does nothing. -/
def hostTurn (s : State) : Result :=
  match s.hostOp with
  | some op => hostStep op s
  | none => .next s

/-- The command the core runs: the row of the latched `OPL` and `CHL` (R34, R160). -/
def State.latchedInstr (s : State) : Instr := .ofCommand s.opl s.chl

/-- The core's turn: a step of the latched command while `BUSY = 1` (R160); an idle core takes no step and holds all its
state (R216, R230). -/
def coreTurn (s : State) : Result :=
  if s.busy then exec s.latchedInstr s else .next s

/-- The agent that takes the next step: the schedule's, and when it is used up the core while it is busy, else the host
(R246; log 9). -/
def State.nextAgent (s : State) : Agent :=
  match s.schedule with
  | a :: _ => a
  | [] => if s.busy then .core else .host

/-- The state with the schedule's first entry used. -/
def State.takeTurn (s : State) : State := { s with schedule := s.schedule.tail }

/-- The step of the agent whose turn it is. -/
def turn (s : State) : Result :=
  match s.nextAgent with
  | .core => coreTurn s.takeTurn
  | .host => hostTurn s.takeTurn

/-- The state in which the next step is the host's write of `w` to `CMD`, with the core idle: the host program is that
one operation (log 10). -/
def State.withCommandWord (s : State) (w : Word) : State :=
  { s with
    status := s.status &&& ~~~1#32
    host := { s.host with program := [cmdRaw w], hpc := 0 }
    schedule := .host :: s.schedule }

end Sys2Proof.Machine
end

