-- ==== Sys2Proof/Machine/Step.lean ====
section
/-! DEFINITION. One step of the machine, and how a command word is placed where the next step takes it. -/

namespace Sys2Proof.Machine

/-- One step: of the core or of the host, whichever the state says moves next (00_scope.md R5; log 9). -/
def step (s : State) : Host.Outcome State Fault Refusal := turn s

/-- `s` with the instruction word `w` (its `nbits` low bits) where the next step takes its command from: CORE fetches no
code (10_state.md R30), so this loads a host program that writes the word to `CMD` and gives the host the turn (log 10). -/
def State.withFetchWord (s : State) (nbits w : Nat) : State :=
  s.withCommandWord (BitVec.ofNat 32 (w % 2 ^ nbits))

end Sys2Proof.Machine
end

