-- ==== Sys2Proof/Machine/Facade.lean ====
section
/-! DEFINITION. The functional meaning of a whole command, `RUN` (43_codec_facade.md R186), written per channel stream and not as the sequence of unit steps, and the result the host sees (R187). -/

namespace Sys2Proof.Machine

/-- The number of channels, and of samples in a group (R7, R157). -/
def channelCount : Layout → Nat
  | .mono => 1
  | .stereo => 2
  | .quad => 4

/-! ## DECODE, one channel at a time -/

/-- The `g`-th code of slot `c` in a code stream of `n` bytes (R144, R145, R148). -/
def codeAt (l : Layout) (bytes : Nat → Byte) (n : Nat) (c g : Nat) : Code :=
  match l with
  | .mono => if g % 2 = 0 then lo (bytes (g / 2)) else hi (bytes (g / 2))
  | .stereo => if c = 0 then lo (bytes g) else hi (bytes g)
  | .quad =>
    if c = 0 then lo (bytes (lrIndex g))
    else if c = 1 then hi (bytes (lrIndex g))
    else if c = 2 then lo (bytes (clIndex .decode n g))
    else hi (bytes (clIndex .decode n g))

/-- A slot after the first `m` codes of its stream, from the START values (R25, R113). -/
def decodedSlot (T : StepTable) (codes : Nat → Code) : Nat → Slot
  | 0 => Slot.zero
  | m + 1 => update T (decodedSlot T codes m) (codes m)

/-- Output sample `j` of a DECODE command: temporal group `j / CH` of slot `j mod CH` (R157). -/
def decodedSample (T : StepTable) (l : Layout) (bytes : Nat → Byte) (n j : Nat) : Sample :=
  (decodedSlot T (codeAt l bytes n (j % channelCount l)) (j / channelCount l + 1)).pred

/-! ## ENCODE, one channel at a time -/

/-- The `g`-th sample of slot `c` in an interleaved sample sequence (R157). -/
def sampleAt (l : Layout) (samples : Nat → Sample) (c g : Nat) : Sample :=
  samples (channelCount l * g + c)

/-- A slot after the first `m` samples of its stream, from the START values (R25, R120). -/
def encodedSlot (T : StepTable) (xs : Nat → Sample) : Nat → Slot
  | 0 => Slot.zero
  | m + 1 => (encodeSample T (encodedSlot T xs m) (xs m)).2

/-- The `g`-th code of a sample stream (R120). -/
def encodedCode (T : StepTable) (xs : Nat → Sample) (g : Nat) : Code :=
  encodeCode T (encodedSlot T xs g) (xs g)

/-- Output byte `j` of an ENCODE command of `n` samples (R151, R152, R154). In a quad stream, byte `j` lies in block
`j / 16384`: before the block's half length it is the (L, R) byte of a group, from there on a (C, LFE) byte (R146). -/
def encodedByte (T : StepTable) (l : Layout) (samples : Nat → Sample) (n j : Nat) : Byte :=
  let code := fun c g => encodedCode T (sampleAt l samples c) g
  match l with
  | .mono => pack (code 0 (2 * j)) (code 0 (2 * j + 1))
  | .stereo => pack (code 0 j) (code 1 j)
  | .quad =>
    let h := halfLength .encode n (j / 16384)
    if j % 16384 < h then
      pack (code 0 (8192 * (j / 16384) + j % 16384)) (code 1 (8192 * (j / 16384) + j % 16384))
    else
      pack (code 2 (8192 * (j / 16384) + (j % 16384 - h))) (code 3 (8192 * (j / 16384) + (j % 16384 - h)))

/-! ## The whole command -/

/-- The result of a command (R186, R187). A code byte of the output stands in the low 8 bits of its unit. -/
inductive RunResult where
  /-- `Error(UnsupportedChannelLayout)`. -/
  | unsupportedChannelLayout
  /-- `Ok(out, outLen, truncated)`. -/
  | ok (out : List (BitVec 16)) (outLen : Nat) (truncated : Bool)
deriving DecidableEq, Repr

/-- Output unit `j` of a command (R52, R186). `cells` are the input units, each a 16-bit cell (R50). -/
def runUnit (T : StepTable) (op : Op) (l : Layout) (cells : Nat → BitVec 16) (n j : Nat) : BitVec 16 :=
  match op with
  | .decode => decodedSample T l (fun i => (cells i).extractLsb' 0 8) n j
  | .encode => (encodedByte T l cells n j).setWidth 16

/-- `RUN(op, ch, IN0, n)` (R186). -/
def run (T : StepTable) (op : Op) (channels : BitVec 8) (cells : Nat → BitVec 16) (n : Nat) : RunResult :=
  match layoutOfChannels channels with
  | none => .unsupportedChannelLayout
  | some l => .ok ((List.range (outLength op l n)).map (runUnit T op l cells n)) (outLength op l n) (truncated op l n)

/-- Output unit `j` as the host reads it: a sample, or a code byte zero-extended (R50, R52). -/
def State.outUnit (s : State) (j : Nat) : BitVec 16 :=
  match outType s.opl with
  | .code => (s.outByte (2 * j)).setWidth 16
  | .sample => s.outCell j

/-- The result of the last completed command: `STATUS`, `OUT_LEN` and `OUT[0 .. OUT_LEN-1]` (R187). -/
def State.result (s : State) : RunResult :=
  if s.err = 0#2 then .ok ((List.range s.outLen.toNat).map s.outUnit) s.outLen.toNat s.trunc
  else .unsupportedChannelLayout

/-- `k` steps of a command's life, stopping at the first fault or refusal (R183, R160, R184). -/
def execTimes (i : Instr) : Nat → State → Result
  | 0, s => .next s
  | k + 1, s =>
    match exec i s with
    | .next t => execTimes i k t
    | .fault r => .fault r
    | .refused r => .refused r

end Sys2Proof.Machine
end

