-- ==== Sys2Proof/Safety.lean ====
section
/-! DEFINITION. What counts as a safe state and a safe run, in the terms the claims use. -/

namespace Sys2Proof.Machine

/-- `STEP_TABLE` meets R102: 89 entries of 16 bits by its type, strictly increasing, starting at 7. -/
abbrev StepTableLegal (T : StepTable) : Prop :=
  T.entries[0] = 7#16 ∧ ∀ i : Fin 88, T.entries[i.val] < T.entries[i.val + 1]

/-- The parameters meet R7 and R102. -/
abbrev ParamsLegal (p : Params) : Prop :=
  StepTableLegal p.stepTable ∧ 1 ≤ p.inCapacity ∧ p.inCapacity ≤ 2147483647

/-- The core can accept a START: it is idle and the input is not too long (R180, R181). -/
abbrev State.startable (s : State) : Prop :=
  s.busy = false ∧ s.inLen.toNat ≤ s.params.inCapacity

/-- The core runs the command of an operation and a layout (R34). -/
abbrev State.running (s : State) (op : Op) (l : Layout) : Prop :=
  s.busy = true ∧ s.opl = op ∧ s.chl = l

/-- What R30, R33, R34, R241 say of a command under way. -/
abbrev State.busyOk (s : State) : Prop :=
  s.nl.toNat ≤ s.params.inCapacity ∧ s.ucnt.toNat ≤ unitCount s.opl s.chl s.nl.toNat ∧ s.outLen = 0#32 ∧
    s.inLen = s.nl ∧ s.cmd = encode s.latchedInstr

/-- The invariant of every step: legal parameters (R7, R102), canonical buffers within their extents (R50), a `STATUS`
word that R205 lists, `OUT_LEN` within the extent of `OUT` (R52), a command under way as R30 to R34 have it, and a host
that has not seen it completed (R62; log 22). -/
structure Inv (s : State) : Prop where
  paramsLegal : ParamsLegal s.params
  inpCanonical : s.inp.wf = true
  outCanonical : s.out.wf = true
  inpWithin : ∀ a, lookupAt s.inp a ≠ none → a < 2 * s.inExtent
  outWithin : ∀ a, lookupAt s.out a ≠ none → a < 2 * s.outExtent
  statusLegal : legalStatus s.status = true
  outLenWithin : s.outLen.toNat ≤ s.outExtent
  busyCommand : s.busy = true → s.busyOk
  handshake : s.busy = true → s.host.awaitingDone = true

/-- `k` steps of the machine, stopping at the first fault or refusal. A run is safe as far as it answers a next state. -/
def runSteps : Nat → State → Result
  | 0, s => .next s
  | k + 1, s =>
    match step s with
    | .next t => runSteps k t
    | .fault r => .fault r
    | .refused r => .refused r

/-- What no unit step changes: everything but the slots, `UCNT` and `OUT` (R160), and every byte of `OUT` but the
stored ones (R52). `stored` says which byte addresses of `OUT` the unit stores to. -/
structure UnitFrame (s t : State) (stored : Nat → Bool) : Prop where
  params : t.params = s.params
  registers : t.cmd = s.cmd ∧ t.inLen = s.inLen ∧ t.status = s.status ∧ t.outLen = s.outLen
  latched : t.opl = s.opl ∧ t.chl = s.chl ∧ t.nl = s.nl
  counted : t.ucnt.toNat = s.ucnt.toNat + 1
  input : t.inp = s.inp ∧ t.inpEpoch = s.inpEpoch
  output : t.outEpoch = s.outEpoch ∧ ∀ a, stored a = false → t.outByte a = s.outByte a
  agents : t.host = s.host ∧ t.schedule = s.schedule

end Sys2Proof.Machine
end

