-- ==== Sys2Proof/Certificates/Slice0/Obligations.lean ====
section
/-! DEFINITION. The statements for the provers, from the numbered rules of spec/. Numbers are written out where the spec writes them out, so that a statement can be held beside its rule. -/

open Sys2Proof Sys2Proof.Machine

/-! ## Encoding -/

/-- R91, R90: decoding a command word is total and inverse to encoding, for every word and every command. -/
def Obligations.CommandWordsAndCommandsCorrespond : Prop :=
  (∀ i : Instr, i.wellFormed = true → decodeWord (encode i) = .instr i) ∧
  (∀ (w : Word) (i : Instr), decodeWord w = .instr i → i.wellFormed = true ∧ encode i = w) ∧
  (∀ w : Word, decodeWord w = .reservedCommand ↔ w.toNat / 2 % 128 ≠ 0 ∨ w.toNat / 65536 ≠ 0)

/-- R92: the words of the opcode map, written out, decode to the commands of their rows. -/
def Obligations.OpcodeMapWordsDecode : Prop :=
  decodeWord 0x00000100#32 = .instr .decMono ∧ decodeWord 0x00000200#32 = .instr .decStereo ∧
  decodeWord 0x00000400#32 = .instr .decQuad ∧ decodeWord 0x00000101#32 = .instr .encMono ∧
  decodeWord 0x00000201#32 = .instr .encStereo ∧ decodeWord 0x00000401#32 = .instr .encQuad ∧
  decodeWord 0x00000300#32 = .instr (.unsupportedLayout .decode 3#8) ∧
  decodeWord 0x0000FF01#32 = .instr (.unsupportedLayout .encode 255#8)

/-- R92: a word selects the row of its command by mask and match, and a reserved word selects none. -/
def Obligations.OpcodeMapRowIsTheDecodedCommand : Prop :=
  ∀ w : Word,
    (∀ i, decodeWord w = .instr i → (selectedRow w).map OpcodeRow.mnemonic = some i.mnemonic) ∧
    (decodeWord w = .reservedCommand → selectedRow w = none)

/-- R91, R93, R181, R182, R183, R206: the checks of a START in their order, and what each outcome is. That the accepted
START leaves `OUT` without defined contents is log 7, and that a START opens the host's handshake is log 22. -/
def Obligations.StartChecksInOrder : Prop :=
  ∀ (w : Word) (s : State), s.busy = false →
    ((w.toNat / 2 % 128 ≠ 0 ∨ w.toNat / 65536 ≠ 0) → hostWriteReg 0 w s = .refused .reservedCommand) ∧
    (w.toNat / 2 % 128 = 0 → w.toNat / 65536 = 0 →
      (s.params.inCapacity < s.inLen.toNat → hostWriteReg 0 w s = .refused .inputTooLong) ∧
      (s.inLen.toNat ≤ s.params.inCapacity →
        (∀ (op : Op) (l : Layout), w.toNat = channelCount l * 256 + (if op = .encode then 1 else 0) →
          hostWriteReg 0 w s = .next (s.openHandshake.accept op l) ∧ (s.openHandshake.accept op l).cmd = w) ∧
        (w.toNat / 256 ≠ 1 → w.toNat / 256 ≠ 2 → w.toNat / 256 ≠ 4 →
          hostWriteReg 0 w s = .next { s with
            cmd := w
            status := 0x00000006#32
            outLen := 0#32
            host := { s.host with awaitingDone := true } })))

/-! ## Code nibbles, code bytes, samples -/

/-- R72: the magnitude, the signed difference and the index delta of every code, by its bits. -/
def Obligations.CodeOperandsByBits : Prop :=
  ∀ (k : Code) (step : Nat),
    mag k step = step / 8 + k.toNat % 2 * (step / 4) + k.toNat / 2 % 2 * (step / 2) + k.toNat / 4 % 2 * step ∧
    signedDiff k step = (if k.toNat ≥ 8 then -(mag k step : Int) else (mag k step : Int)) ∧
    indexStep k = (if k.toNat % 8 < 4 then -1 else 2 * ((k.toNat % 8 : Nat) : Int) - 6)

/-- R103, R104: the index deltas of the eight selectors; the sign bit never changes the delta, which is one of -1, 2, 4,
6, 8. -/
def Obligations.IndexDeltaIgnoresSign : Prop :=
  [0x0#4, 0x1#4, 0x2#4, 0x3#4, 0x4#4, 0x5#4, 0x6#4, 0x7#4].map indexStep = [-1, -1, -1, -1, 2, 4, 6, 8] ∧
  ∀ k : Code, indexStep k = indexStep (k ^^^ 8#4) ∧
    (indexStep k = -1 ∨ indexStep k = 2 ∨ indexStep k = 4 ∨ indexStep k = 6 ∨ indexStep k = 8)

/-- R73, R155, R156: packing two codes and unpacking a byte, as numbers, are inverse and the lanes do not interact. -/
def Obligations.NibbleLanes : Prop :=
  (∀ l h : Code, (pack l h).toNat = h.toNat * 16 + l.toNat ∧ lo (pack l h) = l ∧ hi (pack l h) = h) ∧
  (∀ b : Byte, (lo b).toNat = b.toNat % 16 ∧ (hi b).toNat = b.toNat / 16 ∧ pack (lo b) (hi b) = b)

/-- R101, R102, R103: the tables after reset. The default table is legal, and the source fixes its entry 0. -/
def Obligations.TablesAfterReset : Prop :=
  State.reset.params.stepTable = Config.defaultStepTable ∧ StepTableLegal Config.defaultStepTable ∧
  stepSize Config.defaultStepTable 0 = 7 ∧ stepSize Config.defaultStepTable 8 = 16 ∧
  stepSize Config.defaultStepTable 40 = 337 ∧ stepSize Config.defaultStepTable 87 = 29794 ∧
  stepSize Config.defaultStepTable 88 = 32767 ∧ ParamsLegal State.reset.params

/-! ## The sample codec -/

/-- R112 (with R111): both sums are exact, and only their clamped values are stored; the step is that of the old index. -/
def Obligations.UpdateStoresClampedExactSums : Prop :=
  ∀ (T : StepTable) (sl : Slot) (k : Code),
    (update T sl k).pred.toInt =
      min (max (sl.pred.toInt + signedDiff k (T.entries[sl.sidx.val].toNat)) (-32768)) 32767 ∧
    ((update T sl k).sidx.val : Int) = min (max ((sl.sidx.val : Int) + indexStep k) 0) 88

/-- R131: the widths that are enough for any legal table, and for the default table. -/
def Obligations.DatapathWidths : Prop :=
  ∀ (sl : Slot) (k : Code) (x : Sample),
    (∀ T : StepTable, stepSize T sl.sidx ≤ 65535 ∧ mag k (stepSize T sl.sidx) ≤ 122876 ∧
      -155644 ≤ sl.pred.toInt + diff T sl k ∧ sl.pred.toInt + diff T sl k ≤ 155643) ∧
    -65535 ≤ x.toInt - sl.pred.toInt ∧ x.toInt - sl.pred.toInt ≤ 65535 ∧
    -1 ≤ (sl.sidx.val : Int) + indexStep k ∧ (sl.sidx.val : Int) + indexStep k ≤ 96 ∧
    mag k (stepSize Config.defaultStepTable sl.sidx) ≤ 61436 ∧
    -131072 ≤ sl.pred.toInt + diff Config.defaultStepTable sl k ∧
    sl.pred.toInt + diff Config.defaultStepTable sl k ≤ 131071

/-- R114: the corner cases of `DECODE_SAMPLE`, with the default table. -/
def Obligations.DecodeCornerCases : Prop :=
  let T := Config.defaultStepTable
  decodeSample T ⟨0x7FFF#16, 88⟩ 0x7#4 = (0x7FFF#16, ⟨0x7FFF#16, 88⟩) ∧
  decodeSample T ⟨0x8000#16, 88⟩ 0xF#4 = (0x8000#16, ⟨0x8000#16, 88⟩) ∧
  (∀ p, (decodeSample T ⟨p, 87⟩ 0x4#4).2.sidx = 88) ∧
  (∀ p, ∀ k : Code, k.toNat % 8 < 4 → (decodeSample T ⟨p, 0⟩ k).2.sidx = 0) ∧
  (∀ p, decodeSample T ⟨p, 0⟩ 0x8#4 = (p, ⟨p, 0⟩)) ∧
  (decodeSample T ⟨0#16, 88⟩ 0x8#4).1.toInt = -4095 ∧
  (decodeSample T ⟨0#16, 88⟩ 0x0#4).1.toInt = 4095 ∧ (decodeSample T ⟨0#16, 88⟩ 0x0#4).2.sidx = 87

/-- R120, R121: the four bits of the code, by the exact residual; a residual equal to a threshold sets the bit. The slot is
left as the shared update of that code leaves it. -/
def Obligations.EncoderBitTests : Prop :=
  ∀ (T : StepTable) (sl : Slot) (x : Sample),
    let step := T.entries[sl.sidx.val].toNat
    let delta := x.toInt - sl.pred.toInt
    let d0 := delta.natAbs
    let b2 := if d0 ≥ step then 1 else 0
    let d1 := d0 - b2 * step
    let b1 := if d1 ≥ step / 2 then 1 else 0
    let d2 := d1 - b1 * (step / 2)
    let b0 := if d2 ≥ step / 4 then 1 else 0
    (encodeSample T sl x).1.toNat = (if delta < 0 then 8 else 0) + 4 * b2 + 2 * b1 + b0 ∧
    (encodeSample T sl x).2 = update T sl (encodeSample T sl x).1

/-- R122: the encoder's accumulated magnitude is that of the code it returns, and a decoder given that code in the same
slot reaches the same slot and returns the encoder's new `PRED`. -/
def Obligations.EncoderAndDecoderAgree : Prop :=
  ∀ (T : StepTable) (sl : Slot) (x : Sample),
    (quantise (stepSize T sl.sidx) (x.toInt - sl.pred.toInt)).acc = mag (encodeSample T sl x).1 (stepSize T sl.sidx) ∧
    (encodeSample T sl x).2 = update T sl (encodeSample T sl x).1 ∧
    decodeSample T sl (encodeSample T sl x).1 = ((encodeSample T sl x).2.pred, (encodeSample T sl x).2)

/-- R124: mirrored states and samples give codes with identical bits 2:0, whose bit 3 differs exactly when the sample is
not the prediction; at the prediction both codes are 0. -/
def Obligations.EncoderSignSymmetry : Prop :=
  ∀ (T : StepTable) (sl sl' : Slot) (x x' : Sample), StepTableLegal T →
    sl'.pred.toInt = -sl.pred.toInt → sl'.sidx = sl.sidx → x'.toInt = -x.toInt →
    (encodeSample T sl x).1.extractLsb' 0 3 = (encodeSample T sl' x').1.extractLsb' 0 3 ∧
    ((encodeSample T sl x).1.getLsbD 3 ≠ (encodeSample T sl' x').1.getLsbD 3 ↔ x ≠ sl.pred) ∧
    (x = sl.pred → (encodeSample T sl x).1 = 0#4 ∧ (encodeSample T sl' x').1 = 0#4)

/-- R123 items 1, 2 and 4: a zero residual gives code 0, the smallest negative residual gives code 8 and drops to it, and
any residual of at least `step + step/2 + step/4` saturates the magnitude at 7. -/
def Obligations.EncoderResidualExtremes : Prop :=
  ∀ (T : StepTable) (sl : Slot) (x : Sample), StepTableLegal T →
    (x = sl.pred → (encodeSample T sl x).1 = 0#4) ∧
    (x.toInt - sl.pred.toInt = -1 → stepSize T sl.sidx ≥ 8 → (encodeSample T sl x).1 = 8#4) ∧
    ((x.toInt - sl.pred.toInt).natAbs ≥
        stepSize T sl.sidx + stepSize T sl.sidx / 2 + stepSize T sl.sidx / 4 →
      (encodeSample T sl x).1.toNat % 8 = 7)

/-! ## The framer -/

/-- R143: `OUT_LEN` in terms of the input length, and its bound. -/
def Obligations.OutputLengthOfInputLength : Prop :=
  ∀ n : Nat,
    outLength .decode .mono n = 2 * n ∧ outLength .decode .stereo n = 2 * n ∧
    outLength .decode .quad n = 2 * (n - (n % 16384) % 2) ∧
    outLength .encode .mono n = n / 2 ∧ outLength .encode .stereo n = n / 2 ∧
    outLength .encode .quad n = 2 * (n / 4) ∧
    (∀ op l, outLength op l n ≤ 2 * n)

/-- R147: the quad addresses stay in their block and half, and together cover `0 .. 2U-1` exactly once each. -/
def Obligations.QuadAddressesCoverTheStream : Prop :=
  ∀ (op : Op) (n : Nat),
    let U := unitCount op .quad n
    (∀ g, g < U → g % 8192 < halfLength op n (g / 8192) ∧ lrIndex g < clIndex op n g ∧
      clIndex op n g < 16384 * (g / 8192 + 1)) ∧
    (∀ j, j < 2 * U →
      (∃ g, g < U ∧ lrIndex g = j ∧ (∀ g', g' < U → lrIndex g' = j → g' = g) ∧ (∀ g', g' < U → clIndex op n g' ≠ j)) ∨
      (∃ g, g < U ∧ clIndex op n g = j ∧ (∀ g', g' < U → clIndex op n g' = j → g' = g) ∧
        (∀ g', g' < U → lrIndex g' ≠ j))) ∧
    (∀ g, g < U → lrIndex g < 2 * U ∧ clIndex op n g < 2 * U) ∧
    (op = .decode → 2 * U = n - (n % 16384) % 2)

/-- R149: the source's size correction with its two readings gives back the input length, and so the sample count. -/
def Obligations.SizeCorrectionGivesInputLength : Prop :=
  ∀ n : Nat, n > 0 →
    let blocks := (n + 16383) / 16384
    let size := 16384 * blocks
    let lastBlockSize := n - 16384 * (blocks - 1)
    let realSize := size - (16384 - lastBlockSize)
    realSize = n ∧ (16384 ∣ n → lastBlockSize = 16384) ∧
    ((n % 16384) % 2 = 0 → outLength .decode .quad n = 2 * realSize) ∧
    ((n % 16384) % 2 = 1 → outLength .decode .quad n = 2 * (realSize - 1))

/-- R153: a DECODE of the bytes an ENCODE wrote has the same units and reads each byte where the encoder wrote it. -/
def Obligations.EncodeGeometryIsDecodeGeometry : Prop :=
  ∀ n : Nat,
    unitCount .decode .quad (outLength .encode .quad n) = unitCount .encode .quad n ∧
    truncated .decode .quad (outLength .encode .quad n) = false ∧
    ∀ g, g < unitCount .encode .quad n →
      clIndex .decode (outLength .encode .quad n) g = clIndex .encode n g

/-! ## The life of a command -/

/-- R183 (with R25, R34, R180): the accepted START of each of the six `DEC.*` and `ENC.*` commands, whole. Nothing is
assumed but that the core is idle and the input is not too long. `OUT` has no defined contents from here (log 7). -/
def Obligations.AcceptedStart : Prop :=
  ∀ (op : Op) (l : Layout) (s : State), s.startable →
    exec (.ofCommand op l) s = .next { s with
      cmd := BitVec.ofNat 32 (channelCount l * 256 + (if op = .encode then 1 else 0))
      opl := op
      chl := l
      nl := s.inLen
      slots := #v[⟨0#16, 0⟩, ⟨0#16, 0⟩, ⟨0#16, 0⟩, ⟨0#16, 0⟩]
      ucnt := 0#32
      status := 0x00000001#32
      outLen := 0#32
      out := []
      outEpoch := s.outEpoch + 1 }

/-- R182 (with R196, R200): `UNSUPPORTED_LAYOUT` completes in its START step, for either operation and every channel count
but 1, 2 and 4, and changes nothing but `CMD`, `STATUS` and `OUT_LEN`. -/
def Obligations.UnsupportedLayoutCompletesAtOnce : Prop :=
  ∀ (op : Op) (c : BitVec 8) (s : State), s.startable → legalChannels c = false →
    exec (.unsupportedLayout op c) s = .next { s with
      cmd := BitVec.ofNat 32 (c.toNat * 256 + (if op = .encode then 1 else 0))
      status := 0x00000006#32
      outLen := 0#32 }

/-- R144, R160: a unit of `DEC.MONO`: both codes on slot 0, the low nibble first, and what does not change. -/
def Obligations.DecMonoUnitStep : Prop :=
  ∀ s : State, s.running .decode .mono → s.ucnt.toNat < unitCount .decode .mono s.nl.toNat →
    let u := s.ucnt.toNat
    let first := update s.params.stepTable (s.slot 0) (lo (s.readCode u))
    let second := update s.params.stepTable first (hi (s.readCode u))
    ∃ t, exec .decMono s = .next t ∧ t.slot 0 = second ∧ (∀ c, c ≠ 0 → t.slot c = s.slot c) ∧
      t.outCell (2 * u) = first.pred ∧ t.outCell (2 * u + 1) = second.pred ∧
      UnitFrame s t (fun a => a / 2 == 2 * u || a / 2 == 2 * u + 1)

/-- R145, R160: a unit of `DEC.STEREO`: the low nibble on slot 0, the high nibble on slot 1. -/
def Obligations.DecStereoUnitStep : Prop :=
  ∀ s : State, s.running .decode .stereo → s.ucnt.toNat < unitCount .decode .stereo s.nl.toNat →
    let u := s.ucnt.toNat
    let left := update s.params.stepTable (s.slot 0) (lo (s.readCode u))
    let right := update s.params.stepTable (s.slot 1) (hi (s.readCode u))
    ∃ t, exec .decStereo s = .next t ∧ t.slot 0 = left ∧ t.slot 1 = right ∧ t.slot 2 = s.slot 2 ∧ t.slot 3 = s.slot 3 ∧
      t.outCell (2 * u) = left.pred ∧ t.outCell (2 * u + 1) = right.pred ∧
      UnitFrame s t (fun a => a / 2 == 2 * u || a / 2 == 2 * u + 1)

/-- R148, R160: a unit of `DEC.QUAD`: an (L, R) byte and a (C, LFE) byte on slots 0 to 3. -/
def Obligations.DecQuadUnitStep : Prop :=
  ∀ s : State, s.running .decode .quad → s.ucnt.toNat < unitCount .decode .quad s.nl.toNat →
    let g := s.ucnt.toNat
    let bLR := s.readCode (lrIndex g)
    let bCL := s.readCode (clIndex .decode s.nl.toNat g)
    let T := s.params.stepTable
    ∃ t, exec .decQuad s = .next t ∧
      t.slot 0 = update T (s.slot 0) (lo bLR) ∧ t.slot 1 = update T (s.slot 1) (hi bLR) ∧
      t.slot 2 = update T (s.slot 2) (lo bCL) ∧ t.slot 3 = update T (s.slot 3) (hi bCL) ∧
      (∀ c : Fin 4, t.outCell (4 * g + c.val) = (t.slot c).pred) ∧
      UnitFrame s t (fun a => a / 8 == g)

/-- R151, R160: a unit of `ENC.MONO`: two consecutive samples on slot 0, the first in the low nibble. -/
def Obligations.EncMonoUnitStep : Prop :=
  ∀ s : State, s.running .encode .mono → s.ucnt.toNat < unitCount .encode .mono s.nl.toNat →
    let u := s.ucnt.toNat
    let first := encodeSample s.params.stepTable (s.slot 0) (s.readSample (2 * u))
    let second := encodeSample s.params.stepTable first.2 (s.readSample (2 * u + 1))
    ∃ t, exec .encMono s = .next t ∧ t.slot 0 = second.2 ∧ (∀ c, c ≠ 0 → t.slot c = s.slot c) ∧
      t.outByte (2 * u) = pack first.1 second.1 ∧ UnitFrame s t (fun a => a == 2 * u)

/-- R152, R160: a unit of `ENC.STEREO`: an (L, R) pair on slots 0 and 1. -/
def Obligations.EncStereoUnitStep : Prop :=
  ∀ s : State, s.running .encode .stereo → s.ucnt.toNat < unitCount .encode .stereo s.nl.toNat →
    let u := s.ucnt.toNat
    let left := encodeSample s.params.stepTable (s.slot 0) (s.readSample (2 * u))
    let right := encodeSample s.params.stepTable (s.slot 1) (s.readSample (2 * u + 1))
    ∃ t, exec .encStereo s = .next t ∧ t.slot 0 = left.2 ∧ t.slot 1 = right.2 ∧ t.slot 2 = s.slot 2 ∧
      t.slot 3 = s.slot 3 ∧ t.outByte (2 * u) = pack left.1 right.1 ∧ UnitFrame s t (fun a => a == 2 * u)

/-- R154, R160: a unit of `ENC.QUAD`: an (L, R, C, LFE) group on slots 0 to 3, into its (L, R) byte and its (C, LFE) byte. -/
def Obligations.EncQuadUnitStep : Prop :=
  ∀ s : State, s.running .encode .quad → s.ucnt.toNat < unitCount .encode .quad s.nl.toNat →
    let g := s.ucnt.toNat
    let T := s.params.stepTable
    let left := encodeSample T (s.slot 0) (s.readSample (4 * g))
    let right := encodeSample T (s.slot 1) (s.readSample (4 * g + 1))
    let center := encodeSample T (s.slot 2) (s.readSample (4 * g + 2))
    let lfe := encodeSample T (s.slot 3) (s.readSample (4 * g + 3))
    ∃ t, exec .encQuad s = .next t ∧
      t.slot 0 = left.2 ∧ t.slot 1 = right.2 ∧ t.slot 2 = center.2 ∧ t.slot 3 = lfe.2 ∧
      t.outByte (2 * lrIndex g) = pack left.1 right.1 ∧
      t.outByte (2 * clIndex .encode s.nl.toNat g) = pack center.1 lfe.1 ∧
      UnitFrame s t (fun a => a == 2 * lrIndex g || a == 2 * clIndex .encode s.nl.toNat g)

/-- R184: the completion step of each of the six commands, whole: `OUT_LEN` and `STATUS`, and nothing else. -/
def Obligations.CompletionStep : Prop :=
  ∀ (op : Op) (l : Layout) (s : State), s.running op l → s.ucnt.toNat = unitCount op l s.nl.toNat →
    exec (.ofCommand op l) s = .next { s with
      outLen := BitVec.ofNat 32 (outLength op l s.nl.toNat)
      status := if truncated op l s.nl.toNat then 0x00000012#32 else 0x00000002#32 }

/-- R181: a START with `IN_LEN > IN_CAPACITY` is refused, for every command. -/
def Obligations.TooLongInputRefused : Prop :=
  ∀ (i : Instr) (s : State), s.busy = false → s.inLen.toNat > s.params.inCapacity →
    exec i s = .refused .inputTooLong

/-- R206: while the core is busy, any command but the one it runs is a write of `CMD`, hence `HostProtocolViolation`. That
`exec` of the running command is its next step is the model's reading (log 11). -/
def Obligations.OtherCommandWhileBusyFaults : Prop :=
  ∀ (i : Instr) (s : State), s.busy = true → i ≠ s.latchedInstr →
    exec i s = .fault (.hostProtocolViolation (.writeRegWhileBusy 0))

/-- R185: an accepted command completes after exactly `U + 1` core steps following START, and is busy until then. -/
def Obligations.CommandCompletesAfterItsUnits : Prop :=
  ∀ (op : Op) (l : Layout) (s : State), s.startable →
    (∀ k, k ≤ unitCount op l s.inLen.toNat →
      ∃ t, execTimes (.ofCommand op l) (1 + k) s = .next t ∧ t.busy = true ∧ t.done = false ∧ t.ucnt.toNat = k) ∧
    (∃ t, execTimes (.ofCommand op l) (1 + (unitCount op l s.inLen.toNat + 1)) s = .next t ∧
      t.busy = false ∧ t.done = true) ∧
    unitCount op l s.inLen.toNat ≤ s.params.inCapacity

/-- R186: the steps of a command compute exactly `RUN`, for each of the six commands and every input. -/
def Obligations.CommandStepsComputeRun : Prop :=
  ∀ (op : Op) (l : Layout) (s : State), s.startable → s.params.inCapacity ≤ 2147483647 →
    ∃ t, execTimes (.ofCommand op l) (1 + (unitCount op l s.inLen.toNat + 1)) s = .next t ∧ t.busy = false ∧
      t.result = run s.params.stepTable op l.channels s.inCell s.inLen.toNat ∧
      t.inp = s.inp ∧ t.inpEpoch = s.inpEpoch ∧ t.inLen = s.inLen ∧ t.params = s.params ∧
      t.host = s.host ∧ t.schedule = s.schedule

/-- R186, R196: `RUN` of any other channel count is `UnsupportedChannelLayout`, and that is what the command leaves. -/
def Obligations.UnsupportedCommandComputesRun : Prop :=
  ∀ (op : Op) (c : BitVec 8) (s : State), s.startable → legalChannels c = false →
    ∃ t, exec (.unsupportedLayout op c) s = .next t ∧
      t.result = run s.params.stepTable op c s.inCell s.inLen.toNat ∧
      t.result = .unsupportedChannelLayout

/-- R201 with the `STATUS` and `OUT_LEN` of R190 to R195: what each command leaves in them, by the input length. -/
def Obligations.StatusAndLengthOfEachCommand : Prop :=
  ∀ s : State, s.startable → s.params.inCapacity ≤ 2147483647 →
    let n := s.inLen.toNat
    let leaves := fun (i : Instr) (k : Nat) (trunc : Prop) (len : Nat) =>
      ∃ t, execTimes i (1 + (k + 1)) s = .next t ∧ t.outLen.toNat = len ∧
        (trunc → t.status = 0x00000012#32) ∧ (¬ trunc → t.status = 0x00000002#32)
    leaves .decMono n False (2 * n) ∧
    leaves .decStereo n False (2 * n) ∧
    leaves .decQuad (8192 * (n / 16384) + n % 16384 / 2) (n % 16384 % 2 = 1)
      (4 * (8192 * (n / 16384) + n % 16384 / 2)) ∧
    leaves .encMono (n / 2) (n % 2 = 1) (n / 2) ∧
    leaves .encStereo (n / 2) (n % 2 = 1) (n / 2) ∧
    leaves .encQuad (n / 4) (n % 4 ≠ 0) (2 * (n / 4))

/-- R188: an empty input completes in the step after START with nothing written, and an input shorter than one unit sets
`TRUNC`. -/
def Obligations.EmptyAndShortInputs : Prop :=
  ∀ (op : Op) (l : Layout) (s : State), s.startable →
    (s.inLen.toNat = 0 → ∃ t, execTimes (.ofCommand op l) 2 s = .next t ∧ t.outLen = 0#32 ∧
      t.status = 0x00000002#32 ∧ t.out = []) ∧
    (0 < s.inLen.toNat → s.inLen.toNat < inPerUnit op l → ∃ t, execTimes (.ofCommand op l) 2 s = .next t ∧
      t.outLen = 0#32 ∧ t.status = 0x00000012#32 ∧ t.out = [])

/-- R52: a completed command has written exactly `OUT[0 .. OUT_LEN-1]`: whole cells for DECODE, code bytes for ENCODE. -/
def Obligations.OutputWrittenExactly : Prop :=
  ∀ (op : Op) (l : Layout) (s : State), s.startable → s.params.inCapacity ≤ 2147483647 →
    ∃ t, execTimes (.ofCommand op l) (1 + (unitCount op l s.inLen.toNat + 1)) s = .next t ∧
      ∀ a, lookupAt t.out a ≠ none ↔ a / 2 < t.outLen.toNat ∧ (op = .encode → a % 2 = 0)

/-- R186, R233: the result of a command depends only on the operation, the layout, the table and the first `IN_LEN` input
units, which are code bytes for DECODE and samples for ENCODE: not on earlier commands, on other input, on the unused half
of a code byte's cell, or on anything else in the state. -/
def Obligations.ResultDependsOnlyOnInput : Prop :=
  ∀ (op : Op) (l : Layout) (s s' t t' : State), s.startable → s'.startable →
    s.params.inCapacity ≤ 2147483647 → s'.params.inCapacity ≤ 2147483647 →
    s.params.stepTable = s'.params.stepTable → s.inLen = s'.inLen →
    (op = .decode → ∀ i, i < s.inLen.toNat → s.readCode i = s'.readCode i) →
    (op = .encode → ∀ i, i < s.inLen.toNat → s.readSample i = s'.readSample i) →
    execTimes (.ofCommand op l) (1 + (unitCount op l s.inLen.toNat + 1)) s = .next t →
    execTimes (.ofCommand op l) (1 + (unitCount op l s'.inLen.toNat + 1)) s' = .next t' →
    t.result = t'.result ∧ t.status = t'.status ∧ t.slots = t'.slots

/-- R161: channel independence of stereo and quad DECODE. Two runs whose code streams of slot `c` agree leave slot `c` the
same after every unit, and write the same samples from it, whatever the other slots' codes are. -/
def Obligations.DecodeChannelIndependence : Prop :=
  ∀ (l : Layout) (c : Fin 4) (s s' : State), s.startable → s'.startable →
    l ≠ .mono → c.val < channelCount l →
    s.params.stepTable = s'.params.stepTable → s.inLen = s'.inLen →
    (∀ g, g < unitCount .decode l s.inLen.toNat →
      codeAt l s.readCode s.inLen.toNat c g = codeAt l s'.readCode s'.inLen.toNat c g) →
    ∀ k, k ≤ unitCount .decode l s.inLen.toNat →
      ∃ t t', execTimes (.ofCommand .decode l) (1 + k) s = .next t ∧
        execTimes (.ofCommand .decode l) (1 + k) s' = .next t' ∧ t.slot c = t'.slot c ∧
        ∀ g, g < k → t.outCell (channelCount l * g + c) = t'.outCell (channelCount l * g + c)

/-- R161: channel independence of stereo and quad ENCODE: two runs whose samples of slot `c` agree leave slot `c` the same
after every unit, and write the same nibbles from it. -/
def Obligations.EncodeChannelIndependence : Prop :=
  ∀ (l : Layout) (c : Fin 4) (s s' : State), s.startable → s'.startable →
    l ≠ .mono → c.val < channelCount l →
    s.params.stepTable = s'.params.stepTable → s.inLen = s'.inLen →
    (∀ g, g < unitCount .encode l s.inLen.toNat → sampleAt l s.readSample c g = sampleAt l s'.readSample c g) →
    ∀ k, k ≤ unitCount .encode l s.inLen.toNat →
      ∃ t t', execTimes (.ofCommand .encode l) (1 + k) s = .next t ∧
        execTimes (.ofCommand .encode l) (1 + k) s' = .next t' ∧ t.slot c = t'.slot c ∧
        ∀ g, g < k →
          let j := if l = .quad ∧ c.val ≥ 2 then clIndex .encode s.inLen.toNat g
            else if l = .quad then lrIndex g else g
          let nibble := fun b : Byte => if c.val % 2 = 0 then lo b else hi b
          nibble (t.outByte (2 * j)) = nibble (t'.outByte (2 * j))

/-- R162: round trip. A DECODE of the bytes an ENCODE wrote has as many units, leaves every slot after every unit as the
encoder left it, and gives back each sample as the encoder's `PRED` after it. -/
def Obligations.DecodeFollowsTheEncoder : Prop :=
  ∀ (l : Layout) (s t s' : State), s.startable → s'.startable → s.params.inCapacity ≤ 2147483647 →
    s'.params.stepTable = s.params.stepTable →
    execTimes (.ofCommand .encode l) (1 + (unitCount .encode l s.inLen.toNat + 1)) s = .next t →
    s'.inLen = t.outLen → (∀ j, j < t.outLen.toNat → s'.readCode j = t.outByte (2 * j)) →
    unitCount .decode l s'.inLen.toNat = unitCount .encode l s.inLen.toNat ∧
    (∀ u, u ≤ unitCount .encode l s.inLen.toNat →
      ∃ e d, execTimes (.ofCommand .encode l) (1 + u) s = .next e ∧
        execTimes (.ofCommand .decode l) (1 + u) s' = .next d ∧ d.slots = e.slots) ∧
    (∃ d, execTimes (.ofCommand .decode l) (1 + (unitCount .decode l s'.inLen.toNat + 1)) s' = .next d ∧
      d.slots = t.slots ∧
      ∀ c g, c < channelCount l → g < d.outLen.toNat / channelCount l →
        d.outCell (channelCount l * g + c) =
          (encodedSlot s.params.stepTable (sampleAt l s.readSample c) (g + 1)).pred)

/-- R162, the special case: all-zero samples give all-zero code bytes, and all-zero code bytes give all-zero samples, with
every slot at (0, 0). -/
def Obligations.SilenceStaysSilent : Prop :=
  ∀ (op : Op) (l : Layout) (s : State), s.startable → ParamsLegal s.params →
    (op = .decode → ∀ i, i < s.inLen.toNat → s.readCode i = 0#8) →
    (op = .encode → ∀ i, i < s.inLen.toNat → s.readSample i = 0#16) →
    ∃ t, execTimes (.ofCommand op l) (1 + (unitCount op l s.inLen.toNat + 1)) s = .next t ∧
      (∀ c, t.slot c = ⟨0#16, 0⟩) ∧ ∀ j, j < t.outLen.toNat → t.outUnit j = 0#16

/-! ## The host -/

/-- R29 (with R28, R53, R58): what a host write and a host read of each register do, and that a read changes no state of the
core: it changes the local it is read into, and a read of `STATUS` with `DONE = 1` completes the host's handshake (log 22). -/
def Obligations.RegisterAccesses : Prop :=
  ∀ (s : State) (v : Word) (x : Nat),
    (s.busy = false →
      hostWriteReg 1 v s = .next { s with inLen := v } ∧ hostWriteReg 2 v s = .next s ∧ hostWriteReg 3 v s = .next s ∧
      hostWriteReg 0 v s = startCommand v s.openHandshake) ∧
    (∀ r, r < 4 → s.busy = true → hostWriteReg r v s = .fault (.hostProtocolViolation (.writeRegWhileBusy r))) ∧
    (∀ r, r < 4 → ∃ t, hostReadReg x r s = .next t ∧
      t.hostLocal x = (if r = 0 then s.cmd else if r = 1 then s.inLen else if r = 2 then s.status else s.outLen) ∧
      (∀ y, y ≠ x → t.hostLocal y = s.hostLocal y) ∧
      t = { s with
        host := { s.host with
          locals := t.host.locals
          awaitingDone := s.host.awaitingDone && !(r == 2 && s.done) } })

/-- R96: an access to a register number 4 or above is refused. That a write of it while the core is busy is refused too,
and is not the violation R242 calls a write of any register, is the model's order of the two checks (log 13). -/
def Obligations.ReservedRegistersRefused : Prop :=
  ∀ (s : State) (r x : Nat) (v : Word), r ≥ 4 →
    hostWriteReg r v s = .refused (.reservedRegister r) ∧ hostReadReg x r s = .refused (.reservedRegister r)

/-- R242, R204: each forbidden access of a host while the core is busy faults and is recorded, over the byte bus too, where
the latched operation says what is one whole unit of `IN` and of `OUT` (R50; the bus accesses of log 20). The extents are
those of R50 (an index outside them is no unit, log 12). -/
def Obligations.ForbiddenAccessesWhileBusyFault : Prop :=
  ∀ s : State, s.busy = true → s.nextAgent = .host →
    (∀ r v, s.hostOp = some (.wreg r v) → r < 4 →
      step s = .fault (.hostProtocolViolation (.writeRegWhileBusy r))) ∧
    (∀ i v, s.hostOp = some (.win i v) → i < s.params.inCapacity →
      step s = .fault (.hostProtocolViolation (.writeInWhileBusy i))) ∧
    (∀ x j, s.hostOp = some (.rout x j) → j < 2 * s.params.inCapacity →
      step s = .fault (.hostProtocolViolation (.readOutWhileBusy j))) ∧
    (∀ ty i v, s.opl = .decode → s.hostOp = some (.busWriteIn ty .w8 i v) → i < s.params.inCapacity →
      step s = .fault (.hostProtocolViolation (.writeInWhileBusy i))) ∧
    (∀ ty i v, s.opl = .encode → s.hostOp = some (.busWriteIn ty .w16 (2 * i) v) → i < s.params.inCapacity →
      step s = .fault (.hostProtocolViolation (.writeInWhileBusy i))) ∧
    (∀ x j, s.opl = .decode → s.hostOp = some (.busReadOut x .w16 (2 * j)) → j < 2 * s.params.inCapacity →
      step s = .fault (.hostProtocolViolation (.readOutWhileBusy j))) ∧
    (∀ x j, s.opl = .encode → s.hostOp = some (.busReadOut x .w8 j) → j < 2 * s.params.inCapacity →
      step s = .fault (.hostProtocolViolation (.readOutWhileBusy j)))

/-- R241: what a host reads while a command runs: `STATUS` 0x00000001, `OUT_LEN` 0, the `CMD` and `IN_LEN` of the START,
and `IN`, by unit or over the byte bus; no such read changes anything but its local. The unit type of `IN` is that of the
running command (R50). That a code byte is zero-extended and a sample sign-extended into the local is log 14; the reads of
`IN` are operations of log 20. -/
def Obligations.AllowedReadsWhileBusy : Prop :=
  ∀ s : State, Inv s → s.busy = true → s.nextAgent = .host →
    ∀ x (read : HostOp) (v : Word), s.hostOp = some read →
      (read = .rreg x 2 ∧ v = 0x00000001#32 ∨ read = .rreg x 3 ∧ v = 0#32 ∨
        read = .rreg x 1 ∧ v = s.nl ∨ read = .rreg x 0 ∧ v = encode s.latchedInstr ∨
        (∃ i, i < s.params.inCapacity ∧ v = unitWord (inType s.opl) (s.inCell i) ∧ ∃ ty, read = .rin x ty i ∨
          read = .busReadIn x ty .w8 i ∧ s.opl = .decode ∨ read = .busReadIn x ty .w16 (2 * i) ∧ s.opl = .encode)) →
      ∃ t, step s = .next t ∧ t.hostLocal x = v ∧ (∀ y, y ≠ x → t.hostLocal y = s.hostLocal y) ∧
        t = { s with
          host := { s.host with hpc := s.host.hpc + 1, locals := t.host.locals }
          schedule := s.schedule.tail }

/-- R55: over a byte-addressed bus sample `k` of `IN` is bytes `2k` (bits 7:0) and `2k + 1` (bits 15:8), written and read
in that order, and a code byte has no order to choose. A bus read of `OUT` is the read of the unit it reaches, which after
the handshake (R62; log 22) gives a sample's two bytes in that order. The bus operations are those of log 20, and the
extension into the 32-bit local is log 14. -/
def Obligations.SampleByteOrder : Prop :=
  ∀ (s : State) (k : Nat), s.busy = false →
    (∀ v : BitVec 16, k < s.params.inCapacity →
      ∃ t, hostBusWriteIn .sample .w16 (2 * k) v s = .next t ∧
        (t.inByte (2 * k)).toNat = v.toNat % 256 ∧ (t.inByte (2 * k + 1)).toNat = v.toNat / 256 ∧
        ∀ a, a ≠ 2 * k → a ≠ 2 * k + 1 → t.inByte a = s.inByte a) ∧
    (∀ v : BitVec 16, k < s.params.inCapacity →
      ∃ t, hostBusWriteIn .code .w8 k v s = .next t ∧ (t.readCode k).toNat = v.toNat % 256 ∧
        ∀ a, a ≠ 2 * k → t.inByte a = s.inByte a) ∧
    (∀ x, k < s.params.inCapacity →
      (∃ t, hostBusReadIn x .sample .w16 (2 * k) s = .next t ∧
        (t.hostLocal x).toInt = (s.inByte (2 * k + 1) ++ s.inByte (2 * k) : BitVec (8 + 8)).toInt) ∧
      ∃ t, hostBusReadIn x .code .w8 k s = .next t ∧ (t.hostLocal x).toNat = (s.readCode k).toNat) ∧
    (∀ x, s.opl = .decode → hostBusReadOut x .w16 (2 * k) s = hostReadOut x k s ∧
      (k < 2 * s.params.inCapacity → s.host.awaitingDone = false → ∃ t, hostBusReadOut x .w16 (2 * k) s = .next t ∧
        (t.hostLocal x).toInt = (s.outByte (2 * k + 1) ++ s.outByte (2 * k) : BitVec (8 + 8)).toInt)) ∧
    (∀ x, s.opl = .encode → hostBusReadOut x .w8 k s = hostReadOut x k s ∧
      (k < 2 * s.params.inCapacity → s.host.awaitingDone = false → ∃ t, hostBusReadOut x .w8 k s = .next t ∧
        (t.hostLocal x).toNat = (s.outByte (2 * k)).toNat))

/-- R56, R203: a half-sample access and a 16-bit access at an odd byte offset are refused. What `IN` holds is said by the
running command (R50), and between commands by the host's own operation (log 20), and a 16-bit access to code bytes is
refused as well (log 20). That these refusals come before the check of `BUSY` is log 13. -/
def Obligations.MisalignedAccessesRefused : Prop :=
  ∀ (s : State) (x off : Nat) (v : BitVec 16) (ty : UnitType),
    (s.busy = false ∧ ty = .sample ∨ s.busy = true ∧ s.opl = .encode →
      hostBusWriteIn ty .w8 off v s = .refused (.misalignedHostAccess off) ∧
      hostBusReadIn x ty .w8 off s = .refused (.misalignedHostAccess off)) ∧
    (off % 2 = 1 ∨ s.busy = false ∧ ty = .code ∨ s.busy = true ∧ s.opl = .decode →
      hostBusWriteIn ty .w16 off v s = .refused (.misalignedHostAccess off) ∧
      hostBusReadIn x ty .w16 off s = .refused (.misalignedHostAccess off)) ∧
    (s.opl = .decode → hostBusReadOut x .w8 off s = .refused (.misalignedHostAccess off)) ∧
    (off % 2 = 1 ∨ s.opl = .encode → hostBusReadOut x .w16 off s = .refused (.misalignedHostAccess off))

/-- R97: the operations of a host program at an idle core: `WIN`, `ROUT`, a label, both ways of `BRBIT0`, and `HALT`.
`ROUT` gives a free value between the host's START and its read of `DONE = 1`, and else the value of the unit (R62; log 22). How the
unit is extended into the local is log 14. -/
def Obligations.HostProgramOperations : Prop :=
  ∀ s : State, s.busy = false →
    (∀ i v, i < s.params.inCapacity → ∃ t, hostStep (.win i v) s = .next t ∧ t.inCell i = v ∧
      (∀ k, k ≠ i → t.inCell k = s.inCell k) ∧ t = { s.advanceHost with inp := t.inp }) ∧
    (∀ x j, j < 2 * s.params.inCapacity → ∃ t, hostStep (.rout x j) s = .next t ∧
      (s.host.awaitingDone = false → (t.hostLocal x).toInt =
        (if s.opl = .decode then (s.outCell j).toInt else ((s.outByte (2 * j)).toNat : Int))) ∧
      (s.host.awaitingDone = true →
        t.hostLocal x = unitWord (outType s.opl) (Config.undefinedRead s.host.draws)) ∧
      (∀ y, y ≠ x → t.hostLocal y = s.hostLocal y) ∧
      t = { s with host := { s.host with
        hpc := s.host.hpc + 1
        locals := t.host.locals
        draws := if s.host.awaitingDone then s.host.draws + 1 else s.host.draws } }) ∧
    (∀ n, hostStep (.label n) s = .next s.advanceHost) ∧
    (∀ x b n, (s.hostLocal x).getLsbD b = true → hostStep (.brbit0 x b n) s = .next s.advanceHost) ∧
    (∀ x b n, (s.hostLocal x).getLsbD b = false → .label n ∈ s.host.program →
      ∃ p, hostStep (.brbit0 x b n) s = .next (s.jumpHost p) ∧ s.host.program[p]? = some (.label n)) ∧
    hostStep .halt s = .next s

/-- R246, R98: a host that polls `STATUS` in a `WAIT` loop exits it with `DONE` read, and so with its handshake
completed (R62; log 22), whatever the schedule (every run is weakly fair, log 9). -/
def Obligations.WaitLoopExits : Prop :=
  ∀ (s : State) (x n p : Nat), Inv s → s.busy = true →
    s.host.program[p]? = some (.label n) → s.host.program[p + 1]? = some (.rreg x 2) →
    s.host.program[p + 2]? = some (.brbit0 x 1 n) → findLabel s.host.program n = some p → s.host.hpc = p →
    ∃ k t, runSteps k s = .next t ∧ t.host.hpc = p + 3 ∧ t.busy = false ∧
      t.hostLocal x = t.status ∧ t.done = true ∧ t.host.awaitingDone = false

/-! ## The step -/

/-- R180: when the host is at a write of a command word and the core is idle, the step is `exec` of the decoded command,
after the host has gone on, its handshake is open (log 22) and the schedule's entry is used. -/
def Obligations.StepRunsTheWrittenCommand : Prop :=
  ∀ (s : State) (w : Word) (i : Instr), s.nextAgent = .host → s.busy = false →
    s.hostOp = some (.wreg 0 w) → decodeWord w = .instr i →
    step s = exec i { s with
      host := { s.host with hpc := s.host.hpc + 1, awaitingDone := true }
      schedule := s.schedule.tail }

/-- R160: when the core has the turn, a busy core runs a step of its latched command, and an idle core only uses up the
schedule's entry (R216). -/
def Obligations.StepRunsTheLatchedCommand : Prop :=
  ∀ s : State, s.nextAgent = .core →
    (∀ op l, s.running op l → step s = exec (.ofCommand op l) { s with schedule := s.schedule.tail }) ∧
    (s.busy = false → step s = .next { s with schedule := s.schedule.tail })

/-- The word placed by `withFetchWord` is the command the next step runs (log 10): START from any state, or the refusal. -/
def Obligations.FetchWordIsTheNextCommand : Prop :=
  ∀ (s : State) (w : Word),
    (s.withFetchWord 32 w.toNat).busy = false ∧
    step (s.withFetchWord 32 w.toNat) =
      match decodeWord w with
      | .reservedCommand => .refused .reservedCommand
      | .instr i => exec i { s.withFetchWord 32 w.toNat with
          host := { s.host with program := [.wreg 0 w], hpc := 1, awaitingDone := true }
          schedule := s.schedule }

/-- R37, R230: the values the spec gives for reset: the four registers are 0, and the core takes no step until a START. -/
def Obligations.ResetValues : Prop :=
  State.reset.cmd = 0#32 ∧ State.reset.inLen = 0#32 ∧ State.reset.status = 0#32 ∧ State.reset.outLen = 0#32 ∧
  State.reset.busy = false ∧ State.reset.done = false ∧ coreTurn State.reset = .next State.reset ∧
  step State.reset = .next State.reset

/-- R37, R230, R231, R232: a reset asserted at any time, during a command too, clears the four registers and leaves no
defined byte in `IN` and `OUT`. That undefined contents are an empty list with a new epoch is log 6, and that the host is
the agent that asserts the reset input is log 18. -/
def Obligations.ResetAtAnyTime : Prop :=
  ∀ s : State, s.nextAgent = .host → s.hostOp = some .assertReset →
    ∃ t, step s = .next t ∧ t.cmd = 0#32 ∧ t.inLen = 0#32 ∧ t.status = 0#32 ∧ t.outLen = 0#32 ∧
      t.busy = false ∧ t.done = false ∧ (∀ a, lookupAt t.inp a = none) ∧ (∀ a, lookupAt t.out a = none) ∧
      t.inpEpoch ≠ s.inpEpoch ∧ t.outEpoch ≠ s.outEpoch ∧ t.params = s.params

/-- The invariant holds at reset. -/
def Obligations.InvariantAtReset : Prop := Inv State.reset

/-- Every step keeps the invariant, from every state that has it. -/
def Obligations.StepKeepsTheInvariant : Prop :=
  ∀ s t : State, Inv s → step s = .next t → Inv t

/-- R26, R7: no step of either agent changes the tables or the capacity. -/
def Obligations.StepKeepsTheParameters : Prop :=
  ∀ s t : State, step s = .next t → t.params = s.params

/-- R208: the only ways `STATUS` changes: a START, the completion of the running command, or a reset. So `DONE`, `ERR` and
`TRUNC` are cleared by a START or a reset alone. -/
def Obligations.OnlyStartCompletionOrResetChangesStatus : Prop :=
  ∀ s t : State, step s = .next t → t.status ≠ s.status →
    (s.nextAgent = .host ∧ s.busy = false ∧ ∃ w, s.hostOp = some (.wreg 0 w)) ∨
    (s.nextAgent = .host ∧ s.hostOp = some .assertReset ∧ t.status = 0#32) ∨
    (s.nextAgent = .core ∧ s.busy = true ∧ t.busy = false ∧ t.done = true)

/-- R24, R25: the predictor slots change only by a unit of the running command, by an accepted START, which sets them to
(0, 0), or by a reset; no other access of the host reaches them. -/
def Obligations.OnlyTheCodecChangesPredictors : Prop :=
  ∀ s t : State, step s = .next t → t.slots ≠ s.slots →
    (s.nextAgent = .core ∧ s.busy = true ∧ t.busy = true) ∨
    (s.nextAgent = .host ∧ s.busy = false ∧ (∃ w, s.hostOp = some (.wreg 0 w)) ∧ t.busy = true ∧
      ∀ c, t.slot c = ⟨0#16, 0⟩) ∨
    (s.nextAgent = .host ∧ s.hostOp = some .assertReset)

/-- R51: the core never writes `IN`, and only writes `OUT`, and a host access never writes `OUT`: after a step `IN` differs
only by a host write or a reset, and the listed bytes of `OUT` only by the core, an accepted START or a reset. -/
def Obligations.BufferDirections : Prop :=
  ∀ s t : State, step s = .next t →
    (s.nextAgent = .core → t.inp = s.inp ∧ t.inpEpoch = s.inpEpoch) ∧
    (s.nextAgent = .host → (t.out = s.out ∧ t.outEpoch = s.outEpoch) ∨
      (t.out = [] ∧ t.outEpoch = s.outEpoch + 1 ∧
        (s.hostOp = some .assertReset ∨ s.busy = false ∧ ∃ w, s.hostOp = some (.wreg 0 w))))
end

