-- ==== Sys2Proof/Laws/Codec.lean ====
section
/-! SUPPORT. The laws of the sample codec: the integers behind its patterns and their bounds, and the quantiser's bits as numbers. -/

namespace Sys2Proof.Machine

theorem toInt_samplePattern {v : Int} (h : -32768 ≤ v) (h' : v ≤ 32767) : (samplePattern v).toInt = v := by
  simp only [samplePattern, BitVec.toInt_ofInt]
  rw [Int.bmod_eq_of_le] <;> omega

theorem clamp_bounds (x : Int) {lo hi : Int} (h : lo ≤ hi) : lo ≤ clamp x lo hi ∧ clamp x lo hi ≤ hi := by
  unfold clamp; omega

theorem sample_bounds (p : Sample) : -32768 ≤ p.toInt ∧ p.toInt ≤ 32767 := by
  have h1 := BitVec.le_toInt p
  have h2 := BitVec.toInt_lt (x := p)
  omega

theorem mag_le (k : Code) (step : Nat) : mag k step ≤ step / 8 + step / 4 + step / 2 + step := by
  simp only [mag, Nat.shiftRight_eq_div_pow]
  split_ifs <;> omega

theorem stepSize_le (T : StepTable) (i : Fin 89) : stepSize T i ≤ 65535 := by
  have := (T.entries[i]).isLt
  unfold stepSize; omega

theorem indexStep_bounds (k : Code) : -1 ≤ indexStep k ∧ indexStep k ≤ 8 := by revert k; decide

/-- What the three greedy tests of `ENCODE_SAMPLE` leave (R120): the code and the accumulated magnitude, by the bits. -/
theorem quantise_spec (step : Nat) (delta : Int) :
    let d0 := delta.natAbs
    let b2 := if d0 ≥ step then 1 else 0
    let d1 := d0 - b2 * step
    let b1 := if d1 ≥ step / 2 then 1 else 0
    let d2 := d1 - b1 * (step / 2)
    let b0 := if d2 ≥ step / 4 then 1 else 0
    (quantise step delta).code.toNat = (if delta < 0 then 8 else 0) + 4 * b2 + 2 * b1 + b0 ∧
    (quantise step delta).acc = step / 8 + b0 * (step / 4) + b1 * (step / 2) + b2 * step := by
  intro d0 b2 d1 b1 d2 b0
  have hs : signTest step delta =
      { code := if delta < 0 then 8#4 else 0#4, residual := d0, acc := step / 8 } := by
    unfold signTest
    split <;> simp [Nat.shiftRight_eq_div_pow] <;> omega
  have t2 : bitTest 4#4 step (signTest step delta) =
      { code := (if delta < 0 then 8#4 else 0#4) ||| (if d0 ≥ step then 4#4 else 0#4), residual := d1,
        acc := step / 8 + b2 * step } := by
    rw [hs]; unfold bitTest
    by_cases h : d0 ≥ step <;> simp [h, d1, b2]
  have t1 : bitTest 2#4 (step >>> 1) (bitTest 4#4 step (signTest step delta)) =
      { code := (if delta < 0 then 8#4 else 0#4) ||| (if d0 ≥ step then 4#4 else 0#4) |||
          (if d1 ≥ step / 2 then 2#4 else 0#4), residual := d2, acc := step / 8 + b2 * step + b1 * (step / 2) } := by
    rw [t2]; unfold bitTest
    by_cases h : d1 ≥ step / 2 <;> simp [h, d2, b1, Nat.shiftRight_eq_div_pow]
  have q : (quantise step delta).code = (if delta < 0 then 8#4 else 0#4) ||| (if d0 ≥ step then 4#4 else 0#4) |||
        (if d1 ≥ step / 2 then 2#4 else 0#4) ||| (if d2 ≥ step / 4 then 1#4 else 0#4) ∧
      (quantise step delta).acc = step / 8 + b2 * step + b1 * (step / 2) + b0 * (step / 4) := by
    unfold quantise; rw [t1]; unfold bitTest
    by_cases h : d2 ≥ step / 4 <;> simp [h, b0, Nat.shiftRight_eq_div_pow]
  refine ⟨?_, by rw [q.2]; omega⟩
  rw [q.1]; simp only [b2, b1, b0]
  split_ifs <;> rfl

end Sys2Proof.Machine
end

