-- ==== Sys2Proof/Laws/Encoding.lean ====
section
/-! SUPPORT. The laws of the command word: its fields as numbers, and what decoding a word built from fields gives. -/

namespace Sys2Proof

theorem channelsField_toNat (w : Word) : (channelsField w).toNat = w.toNat / 256 % 256 := by
  simp [channelsField, BitVec.extractLsb'_toNat, Nat.shiftRight_eq_div_pow]

theorem reservedBitsSet_iff (w : Word) :
    reservedBitsSet w = true ↔ w.toNat / 2 % 128 ≠ 0 ∨ w.toNat / 65536 ≠ 0 := by
  have := w.isLt
  simp only [reservedBitsSet, Bool.or_eq_true, bne_iff_ne, ne_eq, ← BitVec.toNat_inj, BitVec.extractLsb'_toNat,
    Nat.shiftRight_eq_div_pow, BitVec.toNat_ofNat]
  omega

theorem opField_eq (w : Word) : opField w = if w.toNat % 2 = 1 then .encode else .decode := by
  simp only [opField, BitVec.getLsbD, Nat.testBit_zero]
  by_cases h : w.toNat % 2 = 1 <;> simp [h]

theorem commandWord_toNat (op : Op) (c : BitVec 8) :
    (commandWord op c).toNat = c.toNat * 256 + (if op = .encode then 1 else 0) := by
  revert c; cases op <;> decide

theorem layoutOfChannels_eq_some {c : BitVec 8} {l : Layout} : layoutOfChannels c = some l ↔ c = l.channels := by
  unfold layoutOfChannels
  cases l <;> simp only [Layout.channels] <;> split_ifs <;> simp_all

theorem layoutOfChannels_eq_none {c : BitVec 8} : layoutOfChannels c = none ↔ legalChannels c = false := by
  unfold layoutOfChannels legalChannels
  split_ifs <;> simp_all

theorem encode_ofCommand (op : Op) (l : Layout) : encode (.ofCommand op l) = commandWord op l.channels := by
  cases op <;> cases l <;> rfl

/-- A word built from an operation and a channel count has no reserved bit set. -/
theorem reservedBitsSet_commandWord (op : Op) (c : BitVec 8) : reservedBitsSet (commandWord op c) = false := by
  have hc := c.isLt
  rw [Bool.eq_false_iff, ne_eq, reservedBitsSet_iff, commandWord_toNat]
  split <;> omega

theorem channelsField_commandWord (op : Op) (c : BitVec 8) : channelsField (commandWord op c) = c := by
  have hc := c.isLt
  apply BitVec.eq_of_toNat_eq
  rw [channelsField_toNat, commandWord_toNat]
  split <;> omega

theorem opField_commandWord (op : Op) (c : BitVec 8) : opField (commandWord op c) = op := by
  rw [opField_eq, commandWord_toNat]
  cases op <;> simp <;> omega

/-- A word without reserved bits is the word of its two fields. -/
theorem commandWord_fields (w : Word) (h : reservedBitsSet w = false) :
    commandWord (opField w) (channelsField w) = w := by
  apply BitVec.eq_of_toNat_eq
  have hw := w.isLt
  rw [Bool.eq_false_iff, ne_eq, reservedBitsSet_iff] at h
  rw [commandWord_toNat, channelsField_toNat, opField_eq]
  split <;> simp_all <;> omega

end Sys2Proof
end

