-- ==== Sys2Proof/Laws/Framer.lean ====
section
/-! SUPPORT. The laws of the framer's counts: bounds, and a quad stream as its full blocks and its tail. -/

namespace Sys2Proof.Machine

/-- A unit never reaches past the input length. -/
theorem unitCount_le (op : Op) (l : Layout) (n : Nat) : unitCount op l n ≤ n := by
  cases op <;> cases l <;> simp only [unitCount] <;> omega

/-- No output is longer than twice the input. -/
theorem outLength_le (op : Op) (l : Layout) (n : Nat) : outLength op l n ≤ 2 * n := by
  cases op <;> cases l <;> simp only [outLength, outPerUnit, unitCount] <;> omega

/-- The half length of a block, by whether it is a full block. -/
theorem halfLength_cases (op : Op) (n β : Nat) :
    (β < fullBlocks op n ∧ halfLength op n β = 8192) ∨
    (fullBlocks op n ≤ β ∧ halfLength op n β = tailHalf op n) := by
  unfold halfLength
  by_cases h : β < fullBlocks op n
  · simp [h]
  · simp [h]; omega

/-- The units of a quad stream are those of its full blocks and those of its tail. -/
theorem unitCount_quad (op : Op) (n : Nat) :
    unitCount op .quad n = 8192 * fullBlocks op n + tailHalf op n ∧ tailHalf op n < 8192 := by
  cases op
  · exact ⟨rfl, by simp only [tailHalf]; omega⟩
  · constructor <;> simp only [unitCount, fullBlocks, tailHalf] <;> omega

end Sys2Proof.Machine
end

