-- ==== Sys2Proof/Laws/State.lean ====
section
/-! SUPPORT. For every named update of `State`, what each field is after it. -/

namespace Sys2Proof.Machine.State

variable (s : State)

/-! ### `writeSample` -/

@[simp] theorem params_writeSample (j : Nat) (v : Sample) : (s.writeSample j v).params = s.params := rfl
@[simp] theorem slots_writeSample (j : Nat) (v : Sample) : (s.writeSample j v).slots = s.slots := rfl
@[simp] theorem cmd_writeSample (j : Nat) (v : Sample) : (s.writeSample j v).cmd = s.cmd := rfl
@[simp] theorem inLen_writeSample (j : Nat) (v : Sample) : (s.writeSample j v).inLen = s.inLen := rfl
@[simp] theorem status_writeSample (j : Nat) (v : Sample) : (s.writeSample j v).status = s.status := rfl
@[simp] theorem outLen_writeSample (j : Nat) (v : Sample) : (s.writeSample j v).outLen = s.outLen := rfl
@[simp] theorem opl_writeSample (j : Nat) (v : Sample) : (s.writeSample j v).opl = s.opl := rfl
@[simp] theorem chl_writeSample (j : Nat) (v : Sample) : (s.writeSample j v).chl = s.chl := rfl
@[simp] theorem nl_writeSample (j : Nat) (v : Sample) : (s.writeSample j v).nl = s.nl := rfl
@[simp] theorem ucnt_writeSample (j : Nat) (v : Sample) : (s.writeSample j v).ucnt = s.ucnt := rfl
@[simp] theorem inp_writeSample (j : Nat) (v : Sample) : (s.writeSample j v).inp = s.inp := rfl
@[simp] theorem inpEpoch_writeSample (j : Nat) (v : Sample) : (s.writeSample j v).inpEpoch = s.inpEpoch := rfl
@[simp] theorem out_writeSample (j : Nat) (v : Sample) : (s.writeSample j v).out = insertAt (insertAt s.out (2 * j) (v.extractLsb' 0 8)) (2 * j + 1) (v.extractLsb' 8 8) := rfl
@[simp] theorem outEpoch_writeSample (j : Nat) (v : Sample) : (s.writeSample j v).outEpoch = s.outEpoch := rfl
@[simp] theorem host_writeSample (j : Nat) (v : Sample) : (s.writeSample j v).host = s.host := rfl
@[simp] theorem schedule_writeSample (j : Nat) (v : Sample) : (s.writeSample j v).schedule = s.schedule := rfl

/-! ### `writeCode` -/

@[simp] theorem params_writeCode (j : Nat) (b : Byte) : (s.writeCode j b).params = s.params := rfl
@[simp] theorem slots_writeCode (j : Nat) (b : Byte) : (s.writeCode j b).slots = s.slots := rfl
@[simp] theorem cmd_writeCode (j : Nat) (b : Byte) : (s.writeCode j b).cmd = s.cmd := rfl
@[simp] theorem inLen_writeCode (j : Nat) (b : Byte) : (s.writeCode j b).inLen = s.inLen := rfl
@[simp] theorem status_writeCode (j : Nat) (b : Byte) : (s.writeCode j b).status = s.status := rfl
@[simp] theorem outLen_writeCode (j : Nat) (b : Byte) : (s.writeCode j b).outLen = s.outLen := rfl
@[simp] theorem opl_writeCode (j : Nat) (b : Byte) : (s.writeCode j b).opl = s.opl := rfl
@[simp] theorem chl_writeCode (j : Nat) (b : Byte) : (s.writeCode j b).chl = s.chl := rfl
@[simp] theorem nl_writeCode (j : Nat) (b : Byte) : (s.writeCode j b).nl = s.nl := rfl
@[simp] theorem ucnt_writeCode (j : Nat) (b : Byte) : (s.writeCode j b).ucnt = s.ucnt := rfl
@[simp] theorem inp_writeCode (j : Nat) (b : Byte) : (s.writeCode j b).inp = s.inp := rfl
@[simp] theorem inpEpoch_writeCode (j : Nat) (b : Byte) : (s.writeCode j b).inpEpoch = s.inpEpoch := rfl
@[simp] theorem out_writeCode (j : Nat) (b : Byte) : (s.writeCode j b).out = insertAt s.out (2 * j) b := rfl
@[simp] theorem outEpoch_writeCode (j : Nat) (b : Byte) : (s.writeCode j b).outEpoch = s.outEpoch := rfl
@[simp] theorem host_writeCode (j : Nat) (b : Byte) : (s.writeCode j b).host = s.host := rfl
@[simp] theorem schedule_writeCode (j : Nat) (b : Byte) : (s.writeCode j b).schedule = s.schedule := rfl

/-! ### `writeInCell` -/

@[simp] theorem params_writeInCell (i : Nat) (v : BitVec 16) : (s.writeInCell i v).params = s.params := rfl
@[simp] theorem slots_writeInCell (i : Nat) (v : BitVec 16) : (s.writeInCell i v).slots = s.slots := rfl
@[simp] theorem cmd_writeInCell (i : Nat) (v : BitVec 16) : (s.writeInCell i v).cmd = s.cmd := rfl
@[simp] theorem inLen_writeInCell (i : Nat) (v : BitVec 16) : (s.writeInCell i v).inLen = s.inLen := rfl
@[simp] theorem status_writeInCell (i : Nat) (v : BitVec 16) : (s.writeInCell i v).status = s.status := rfl
@[simp] theorem outLen_writeInCell (i : Nat) (v : BitVec 16) : (s.writeInCell i v).outLen = s.outLen := rfl
@[simp] theorem opl_writeInCell (i : Nat) (v : BitVec 16) : (s.writeInCell i v).opl = s.opl := rfl
@[simp] theorem chl_writeInCell (i : Nat) (v : BitVec 16) : (s.writeInCell i v).chl = s.chl := rfl
@[simp] theorem nl_writeInCell (i : Nat) (v : BitVec 16) : (s.writeInCell i v).nl = s.nl := rfl
@[simp] theorem ucnt_writeInCell (i : Nat) (v : BitVec 16) : (s.writeInCell i v).ucnt = s.ucnt := rfl
@[simp] theorem inp_writeInCell (i : Nat) (v : BitVec 16) : (s.writeInCell i v).inp = insertAt (insertAt s.inp (2 * i) (v.extractLsb' 0 8)) (2 * i + 1) (v.extractLsb' 8 8) := rfl
@[simp] theorem inpEpoch_writeInCell (i : Nat) (v : BitVec 16) : (s.writeInCell i v).inpEpoch = s.inpEpoch := rfl
@[simp] theorem out_writeInCell (i : Nat) (v : BitVec 16) : (s.writeInCell i v).out = s.out := rfl
@[simp] theorem outEpoch_writeInCell (i : Nat) (v : BitVec 16) : (s.writeInCell i v).outEpoch = s.outEpoch := rfl
@[simp] theorem host_writeInCell (i : Nat) (v : BitVec 16) : (s.writeInCell i v).host = s.host := rfl
@[simp] theorem schedule_writeInCell (i : Nat) (v : BitVec 16) : (s.writeInCell i v).schedule = s.schedule := rfl

/-! ### `writeInByte` -/

@[simp] theorem params_writeInByte (i : Nat) (b : Byte) : (s.writeInByte i b).params = s.params := rfl
@[simp] theorem slots_writeInByte (i : Nat) (b : Byte) : (s.writeInByte i b).slots = s.slots := rfl
@[simp] theorem cmd_writeInByte (i : Nat) (b : Byte) : (s.writeInByte i b).cmd = s.cmd := rfl
@[simp] theorem inLen_writeInByte (i : Nat) (b : Byte) : (s.writeInByte i b).inLen = s.inLen := rfl
@[simp] theorem status_writeInByte (i : Nat) (b : Byte) : (s.writeInByte i b).status = s.status := rfl
@[simp] theorem outLen_writeInByte (i : Nat) (b : Byte) : (s.writeInByte i b).outLen = s.outLen := rfl
@[simp] theorem opl_writeInByte (i : Nat) (b : Byte) : (s.writeInByte i b).opl = s.opl := rfl
@[simp] theorem chl_writeInByte (i : Nat) (b : Byte) : (s.writeInByte i b).chl = s.chl := rfl
@[simp] theorem nl_writeInByte (i : Nat) (b : Byte) : (s.writeInByte i b).nl = s.nl := rfl
@[simp] theorem ucnt_writeInByte (i : Nat) (b : Byte) : (s.writeInByte i b).ucnt = s.ucnt := rfl
@[simp] theorem inp_writeInByte (i : Nat) (b : Byte) : (s.writeInByte i b).inp = insertAt s.inp (2 * i) b := rfl
@[simp] theorem inpEpoch_writeInByte (i : Nat) (b : Byte) : (s.writeInByte i b).inpEpoch = s.inpEpoch := rfl
@[simp] theorem out_writeInByte (i : Nat) (b : Byte) : (s.writeInByte i b).out = s.out := rfl
@[simp] theorem outEpoch_writeInByte (i : Nat) (b : Byte) : (s.writeInByte i b).outEpoch = s.outEpoch := rfl
@[simp] theorem host_writeInByte (i : Nat) (b : Byte) : (s.writeInByte i b).host = s.host := rfl
@[simp] theorem schedule_writeInByte (i : Nat) (b : Byte) : (s.writeInByte i b).schedule = s.schedule := rfl

/-! ### `forgetOut` -/

@[simp] theorem params_forgetOut : (s.forgetOut).params = s.params := rfl
@[simp] theorem slots_forgetOut : (s.forgetOut).slots = s.slots := rfl
@[simp] theorem cmd_forgetOut : (s.forgetOut).cmd = s.cmd := rfl
@[simp] theorem inLen_forgetOut : (s.forgetOut).inLen = s.inLen := rfl
@[simp] theorem status_forgetOut : (s.forgetOut).status = s.status := rfl
@[simp] theorem outLen_forgetOut : (s.forgetOut).outLen = s.outLen := rfl
@[simp] theorem opl_forgetOut : (s.forgetOut).opl = s.opl := rfl
@[simp] theorem chl_forgetOut : (s.forgetOut).chl = s.chl := rfl
@[simp] theorem nl_forgetOut : (s.forgetOut).nl = s.nl := rfl
@[simp] theorem ucnt_forgetOut : (s.forgetOut).ucnt = s.ucnt := rfl
@[simp] theorem inp_forgetOut : (s.forgetOut).inp = s.inp := rfl
@[simp] theorem inpEpoch_forgetOut : (s.forgetOut).inpEpoch = s.inpEpoch := rfl
@[simp] theorem out_forgetOut : (s.forgetOut).out = [] := rfl
@[simp] theorem outEpoch_forgetOut : (s.forgetOut).outEpoch = s.outEpoch + 1 := rfl
@[simp] theorem host_forgetOut : (s.forgetOut).host = s.host := rfl
@[simp] theorem schedule_forgetOut : (s.forgetOut).schedule = s.schedule := rfl

/-! ### `forgetIn` -/

@[simp] theorem params_forgetIn : (s.forgetIn).params = s.params := rfl
@[simp] theorem slots_forgetIn : (s.forgetIn).slots = s.slots := rfl
@[simp] theorem cmd_forgetIn : (s.forgetIn).cmd = s.cmd := rfl
@[simp] theorem inLen_forgetIn : (s.forgetIn).inLen = s.inLen := rfl
@[simp] theorem status_forgetIn : (s.forgetIn).status = s.status := rfl
@[simp] theorem outLen_forgetIn : (s.forgetIn).outLen = s.outLen := rfl
@[simp] theorem opl_forgetIn : (s.forgetIn).opl = s.opl := rfl
@[simp] theorem chl_forgetIn : (s.forgetIn).chl = s.chl := rfl
@[simp] theorem nl_forgetIn : (s.forgetIn).nl = s.nl := rfl
@[simp] theorem ucnt_forgetIn : (s.forgetIn).ucnt = s.ucnt := rfl
@[simp] theorem inp_forgetIn : (s.forgetIn).inp = [] := rfl
@[simp] theorem inpEpoch_forgetIn : (s.forgetIn).inpEpoch = s.inpEpoch + 1 := rfl
@[simp] theorem out_forgetIn : (s.forgetIn).out = s.out := rfl
@[simp] theorem outEpoch_forgetIn : (s.forgetIn).outEpoch = s.outEpoch := rfl
@[simp] theorem host_forgetIn : (s.forgetIn).host = s.host := rfl
@[simp] theorem schedule_forgetIn : (s.forgetIn).schedule = s.schedule := rfl

/-! ### `setSlot` -/

@[simp] theorem params_setSlot (c : Fin 4) (v : Slot) : (s.setSlot c v).params = s.params := rfl
@[simp] theorem slots_setSlot (c : Fin 4) (v : Slot) : (s.setSlot c v).slots = s.slots.set c v := rfl
@[simp] theorem cmd_setSlot (c : Fin 4) (v : Slot) : (s.setSlot c v).cmd = s.cmd := rfl
@[simp] theorem inLen_setSlot (c : Fin 4) (v : Slot) : (s.setSlot c v).inLen = s.inLen := rfl
@[simp] theorem status_setSlot (c : Fin 4) (v : Slot) : (s.setSlot c v).status = s.status := rfl
@[simp] theorem outLen_setSlot (c : Fin 4) (v : Slot) : (s.setSlot c v).outLen = s.outLen := rfl
@[simp] theorem opl_setSlot (c : Fin 4) (v : Slot) : (s.setSlot c v).opl = s.opl := rfl
@[simp] theorem chl_setSlot (c : Fin 4) (v : Slot) : (s.setSlot c v).chl = s.chl := rfl
@[simp] theorem nl_setSlot (c : Fin 4) (v : Slot) : (s.setSlot c v).nl = s.nl := rfl
@[simp] theorem ucnt_setSlot (c : Fin 4) (v : Slot) : (s.setSlot c v).ucnt = s.ucnt := rfl
@[simp] theorem inp_setSlot (c : Fin 4) (v : Slot) : (s.setSlot c v).inp = s.inp := rfl
@[simp] theorem inpEpoch_setSlot (c : Fin 4) (v : Slot) : (s.setSlot c v).inpEpoch = s.inpEpoch := rfl
@[simp] theorem out_setSlot (c : Fin 4) (v : Slot) : (s.setSlot c v).out = s.out := rfl
@[simp] theorem outEpoch_setSlot (c : Fin 4) (v : Slot) : (s.setSlot c v).outEpoch = s.outEpoch := rfl
@[simp] theorem host_setSlot (c : Fin 4) (v : Slot) : (s.setSlot c v).host = s.host := rfl
@[simp] theorem schedule_setSlot (c : Fin 4) (v : Slot) : (s.setSlot c v).schedule = s.schedule := rfl

/-! ### `accept` -/

@[simp] theorem params_accept (op : Op) (l : Layout) : (s.accept op l).params = s.params := rfl
@[simp] theorem slots_accept (op : Op) (l : Layout) : (s.accept op l).slots = Vector.replicate 4 Slot.zero := rfl
@[simp] theorem cmd_accept (op : Op) (l : Layout) : (s.accept op l).cmd = encode (.ofCommand op l) := rfl
@[simp] theorem inLen_accept (op : Op) (l : Layout) : (s.accept op l).inLen = s.inLen := rfl
@[simp] theorem status_accept (op : Op) (l : Layout) : (s.accept op l).status = busyStatus := rfl
@[simp] theorem outLen_accept (op : Op) (l : Layout) : (s.accept op l).outLen = 0#32 := rfl
@[simp] theorem opl_accept (op : Op) (l : Layout) : (s.accept op l).opl = op := rfl
@[simp] theorem chl_accept (op : Op) (l : Layout) : (s.accept op l).chl = l := rfl
@[simp] theorem nl_accept (op : Op) (l : Layout) : (s.accept op l).nl = s.inLen := rfl
@[simp] theorem ucnt_accept (op : Op) (l : Layout) : (s.accept op l).ucnt = 0#32 := rfl
@[simp] theorem inp_accept (op : Op) (l : Layout) : (s.accept op l).inp = s.inp := rfl
@[simp] theorem inpEpoch_accept (op : Op) (l : Layout) : (s.accept op l).inpEpoch = s.inpEpoch := rfl
@[simp] theorem out_accept (op : Op) (l : Layout) : (s.accept op l).out = [] := rfl
@[simp] theorem outEpoch_accept (op : Op) (l : Layout) : (s.accept op l).outEpoch = s.outEpoch + 1 := rfl
@[simp] theorem host_accept (op : Op) (l : Layout) : (s.accept op l).host = s.host := rfl
@[simp] theorem schedule_accept (op : Op) (l : Layout) : (s.accept op l).schedule = s.schedule := rfl

/-! ### `complete` -/

@[simp] theorem params_complete (op : Op) (l : Layout) : (s.complete op l).params = s.params := rfl
@[simp] theorem slots_complete (op : Op) (l : Layout) : (s.complete op l).slots = s.slots := rfl
@[simp] theorem cmd_complete (op : Op) (l : Layout) : (s.complete op l).cmd = s.cmd := rfl
@[simp] theorem inLen_complete (op : Op) (l : Layout) : (s.complete op l).inLen = s.inLen := rfl
@[simp] theorem status_complete (op : Op) (l : Layout) : (s.complete op l).status = doneStatus (truncated op l s.nl.toNat) := rfl
@[simp] theorem outLen_complete (op : Op) (l : Layout) : (s.complete op l).outLen = BitVec.ofNat 32 (outLength op l s.nl.toNat) := rfl
@[simp] theorem opl_complete (op : Op) (l : Layout) : (s.complete op l).opl = s.opl := rfl
@[simp] theorem chl_complete (op : Op) (l : Layout) : (s.complete op l).chl = s.chl := rfl
@[simp] theorem nl_complete (op : Op) (l : Layout) : (s.complete op l).nl = s.nl := rfl
@[simp] theorem ucnt_complete (op : Op) (l : Layout) : (s.complete op l).ucnt = s.ucnt := rfl
@[simp] theorem inp_complete (op : Op) (l : Layout) : (s.complete op l).inp = s.inp := rfl
@[simp] theorem inpEpoch_complete (op : Op) (l : Layout) : (s.complete op l).inpEpoch = s.inpEpoch := rfl
@[simp] theorem out_complete (op : Op) (l : Layout) : (s.complete op l).out = s.out := rfl
@[simp] theorem outEpoch_complete (op : Op) (l : Layout) : (s.complete op l).outEpoch = s.outEpoch := rfl
@[simp] theorem host_complete (op : Op) (l : Layout) : (s.complete op l).host = s.host := rfl
@[simp] theorem schedule_complete (op : Op) (l : Layout) : (s.complete op l).schedule = s.schedule := rfl

/-! ### `raiseUnsupportedLayout` -/

@[simp] theorem params_raiseUnsupportedLayout (op : Op) (c : BitVec 8) : (s.raiseUnsupportedLayout op c).params = s.params := rfl
@[simp] theorem slots_raiseUnsupportedLayout (op : Op) (c : BitVec 8) : (s.raiseUnsupportedLayout op c).slots = s.slots := rfl
@[simp] theorem cmd_raiseUnsupportedLayout (op : Op) (c : BitVec 8) : (s.raiseUnsupportedLayout op c).cmd = encode (.unsupportedLayout op c) := rfl
@[simp] theorem inLen_raiseUnsupportedLayout (op : Op) (c : BitVec 8) : (s.raiseUnsupportedLayout op c).inLen = s.inLen := rfl
@[simp] theorem status_raiseUnsupportedLayout (op : Op) (c : BitVec 8) : (s.raiseUnsupportedLayout op c).status = unsupportedStatus := rfl
@[simp] theorem outLen_raiseUnsupportedLayout (op : Op) (c : BitVec 8) : (s.raiseUnsupportedLayout op c).outLen = 0#32 := rfl
@[simp] theorem opl_raiseUnsupportedLayout (op : Op) (c : BitVec 8) : (s.raiseUnsupportedLayout op c).opl = s.opl := rfl
@[simp] theorem chl_raiseUnsupportedLayout (op : Op) (c : BitVec 8) : (s.raiseUnsupportedLayout op c).chl = s.chl := rfl
@[simp] theorem nl_raiseUnsupportedLayout (op : Op) (c : BitVec 8) : (s.raiseUnsupportedLayout op c).nl = s.nl := rfl
@[simp] theorem ucnt_raiseUnsupportedLayout (op : Op) (c : BitVec 8) : (s.raiseUnsupportedLayout op c).ucnt = s.ucnt := rfl
@[simp] theorem inp_raiseUnsupportedLayout (op : Op) (c : BitVec 8) : (s.raiseUnsupportedLayout op c).inp = s.inp := rfl
@[simp] theorem inpEpoch_raiseUnsupportedLayout (op : Op) (c : BitVec 8) : (s.raiseUnsupportedLayout op c).inpEpoch = s.inpEpoch := rfl
@[simp] theorem out_raiseUnsupportedLayout (op : Op) (c : BitVec 8) : (s.raiseUnsupportedLayout op c).out = s.out := rfl
@[simp] theorem outEpoch_raiseUnsupportedLayout (op : Op) (c : BitVec 8) : (s.raiseUnsupportedLayout op c).outEpoch = s.outEpoch := rfl
@[simp] theorem host_raiseUnsupportedLayout (op : Op) (c : BitVec 8) : (s.raiseUnsupportedLayout op c).host = s.host := rfl
@[simp] theorem schedule_raiseUnsupportedLayout (op : Op) (c : BitVec 8) : (s.raiseUnsupportedLayout op c).schedule = s.schedule := rfl

/-! ### `advanceUnit` -/

@[simp] theorem params_advanceUnit : (s.advanceUnit).params = s.params := rfl
@[simp] theorem slots_advanceUnit : (s.advanceUnit).slots = s.slots := rfl
@[simp] theorem cmd_advanceUnit : (s.advanceUnit).cmd = s.cmd := rfl
@[simp] theorem inLen_advanceUnit : (s.advanceUnit).inLen = s.inLen := rfl
@[simp] theorem status_advanceUnit : (s.advanceUnit).status = s.status := rfl
@[simp] theorem outLen_advanceUnit : (s.advanceUnit).outLen = s.outLen := rfl
@[simp] theorem opl_advanceUnit : (s.advanceUnit).opl = s.opl := rfl
@[simp] theorem chl_advanceUnit : (s.advanceUnit).chl = s.chl := rfl
@[simp] theorem nl_advanceUnit : (s.advanceUnit).nl = s.nl := rfl
@[simp] theorem ucnt_advanceUnit : (s.advanceUnit).ucnt = s.ucnt + 1#32 := rfl
@[simp] theorem inp_advanceUnit : (s.advanceUnit).inp = s.inp := rfl
@[simp] theorem inpEpoch_advanceUnit : (s.advanceUnit).inpEpoch = s.inpEpoch := rfl
@[simp] theorem out_advanceUnit : (s.advanceUnit).out = s.out := rfl
@[simp] theorem outEpoch_advanceUnit : (s.advanceUnit).outEpoch = s.outEpoch := rfl
@[simp] theorem host_advanceUnit : (s.advanceUnit).host = s.host := rfl
@[simp] theorem schedule_advanceUnit : (s.advanceUnit).schedule = s.schedule := rfl

/-! ### `resetCore` -/

@[simp] theorem params_resetCore : (s.resetCore).params = s.params := rfl
@[simp] theorem slots_resetCore : (s.resetCore).slots = Vector.replicate 4 Slot.zero := rfl
@[simp] theorem cmd_resetCore : (s.resetCore).cmd = 0#32 := rfl
@[simp] theorem inLen_resetCore : (s.resetCore).inLen = 0#32 := rfl
@[simp] theorem status_resetCore : (s.resetCore).status = 0#32 := rfl
@[simp] theorem outLen_resetCore : (s.resetCore).outLen = 0#32 := rfl
@[simp] theorem opl_resetCore : (s.resetCore).opl = .decode := rfl
@[simp] theorem chl_resetCore : (s.resetCore).chl = .mono := rfl
@[simp] theorem nl_resetCore : (s.resetCore).nl = 0#32 := rfl
@[simp] theorem ucnt_resetCore : (s.resetCore).ucnt = 0#32 := rfl
@[simp] theorem inp_resetCore : (s.resetCore).inp = [] := rfl
@[simp] theorem inpEpoch_resetCore : (s.resetCore).inpEpoch = s.inpEpoch + 1 := rfl
@[simp] theorem out_resetCore : (s.resetCore).out = [] := rfl
@[simp] theorem outEpoch_resetCore : (s.resetCore).outEpoch = s.outEpoch + 1 := rfl
@[simp] theorem host_resetCore : (s.resetCore).host = s.host := rfl
@[simp] theorem schedule_resetCore : (s.resetCore).schedule = s.schedule := rfl

/-! ### `setHostLocal` -/

@[simp] theorem params_setHostLocal (x : Nat) (v : Word) : (s.setHostLocal x v).params = s.params := rfl
@[simp] theorem slots_setHostLocal (x : Nat) (v : Word) : (s.setHostLocal x v).slots = s.slots := rfl
@[simp] theorem cmd_setHostLocal (x : Nat) (v : Word) : (s.setHostLocal x v).cmd = s.cmd := rfl
@[simp] theorem inLen_setHostLocal (x : Nat) (v : Word) : (s.setHostLocal x v).inLen = s.inLen := rfl
@[simp] theorem status_setHostLocal (x : Nat) (v : Word) : (s.setHostLocal x v).status = s.status := rfl
@[simp] theorem outLen_setHostLocal (x : Nat) (v : Word) : (s.setHostLocal x v).outLen = s.outLen := rfl
@[simp] theorem opl_setHostLocal (x : Nat) (v : Word) : (s.setHostLocal x v).opl = s.opl := rfl
@[simp] theorem chl_setHostLocal (x : Nat) (v : Word) : (s.setHostLocal x v).chl = s.chl := rfl
@[simp] theorem nl_setHostLocal (x : Nat) (v : Word) : (s.setHostLocal x v).nl = s.nl := rfl
@[simp] theorem ucnt_setHostLocal (x : Nat) (v : Word) : (s.setHostLocal x v).ucnt = s.ucnt := rfl
@[simp] theorem inp_setHostLocal (x : Nat) (v : Word) : (s.setHostLocal x v).inp = s.inp := rfl
@[simp] theorem inpEpoch_setHostLocal (x : Nat) (v : Word) : (s.setHostLocal x v).inpEpoch = s.inpEpoch := rfl
@[simp] theorem out_setHostLocal (x : Nat) (v : Word) : (s.setHostLocal x v).out = s.out := rfl
@[simp] theorem outEpoch_setHostLocal (x : Nat) (v : Word) : (s.setHostLocal x v).outEpoch = s.outEpoch := rfl
@[simp] theorem host_setHostLocal (x : Nat) (v : Word) : (s.setHostLocal x v).host = { s.host with locals := insertAt s.host.locals x v } := rfl
@[simp] theorem schedule_setHostLocal (x : Nat) (v : Word) : (s.setHostLocal x v).schedule = s.schedule := rfl

/-! ### `advanceHost` -/

@[simp] theorem params_advanceHost : (s.advanceHost).params = s.params := rfl
@[simp] theorem slots_advanceHost : (s.advanceHost).slots = s.slots := rfl
@[simp] theorem cmd_advanceHost : (s.advanceHost).cmd = s.cmd := rfl
@[simp] theorem inLen_advanceHost : (s.advanceHost).inLen = s.inLen := rfl
@[simp] theorem status_advanceHost : (s.advanceHost).status = s.status := rfl
@[simp] theorem outLen_advanceHost : (s.advanceHost).outLen = s.outLen := rfl
@[simp] theorem opl_advanceHost : (s.advanceHost).opl = s.opl := rfl
@[simp] theorem chl_advanceHost : (s.advanceHost).chl = s.chl := rfl
@[simp] theorem nl_advanceHost : (s.advanceHost).nl = s.nl := rfl
@[simp] theorem ucnt_advanceHost : (s.advanceHost).ucnt = s.ucnt := rfl
@[simp] theorem inp_advanceHost : (s.advanceHost).inp = s.inp := rfl
@[simp] theorem inpEpoch_advanceHost : (s.advanceHost).inpEpoch = s.inpEpoch := rfl
@[simp] theorem out_advanceHost : (s.advanceHost).out = s.out := rfl
@[simp] theorem outEpoch_advanceHost : (s.advanceHost).outEpoch = s.outEpoch := rfl
@[simp] theorem host_advanceHost : (s.advanceHost).host = { s.host with hpc := s.host.hpc + 1 } := rfl
@[simp] theorem schedule_advanceHost : (s.advanceHost).schedule = s.schedule := rfl

/-! ### `noteRead` -/

@[simp] theorem params_noteRead (r : Nat) : (s.noteRead r).params = s.params := rfl
@[simp] theorem slots_noteRead (r : Nat) : (s.noteRead r).slots = s.slots := rfl
@[simp] theorem cmd_noteRead (r : Nat) : (s.noteRead r).cmd = s.cmd := rfl
@[simp] theorem inLen_noteRead (r : Nat) : (s.noteRead r).inLen = s.inLen := rfl
@[simp] theorem status_noteRead (r : Nat) : (s.noteRead r).status = s.status := rfl
@[simp] theorem outLen_noteRead (r : Nat) : (s.noteRead r).outLen = s.outLen := rfl
@[simp] theorem opl_noteRead (r : Nat) : (s.noteRead r).opl = s.opl := rfl
@[simp] theorem chl_noteRead (r : Nat) : (s.noteRead r).chl = s.chl := rfl
@[simp] theorem nl_noteRead (r : Nat) : (s.noteRead r).nl = s.nl := rfl
@[simp] theorem ucnt_noteRead (r : Nat) : (s.noteRead r).ucnt = s.ucnt := rfl
@[simp] theorem inp_noteRead (r : Nat) : (s.noteRead r).inp = s.inp := rfl
@[simp] theorem inpEpoch_noteRead (r : Nat) : (s.noteRead r).inpEpoch = s.inpEpoch := rfl
@[simp] theorem out_noteRead (r : Nat) : (s.noteRead r).out = s.out := rfl
@[simp] theorem outEpoch_noteRead (r : Nat) : (s.noteRead r).outEpoch = s.outEpoch := rfl
@[simp] theorem host_noteRead (r : Nat) : (s.noteRead r).host = { s.host with awaitingDone := s.host.awaitingDone && !(r == 2 && s.done) } := rfl
@[simp] theorem schedule_noteRead (r : Nat) : (s.noteRead r).schedule = s.schedule := rfl

/-! ### `openHandshake` -/

@[simp] theorem params_openHandshake : (s.openHandshake).params = s.params := rfl
@[simp] theorem slots_openHandshake : (s.openHandshake).slots = s.slots := rfl
@[simp] theorem cmd_openHandshake : (s.openHandshake).cmd = s.cmd := rfl
@[simp] theorem inLen_openHandshake : (s.openHandshake).inLen = s.inLen := rfl
@[simp] theorem status_openHandshake : (s.openHandshake).status = s.status := rfl
@[simp] theorem outLen_openHandshake : (s.openHandshake).outLen = s.outLen := rfl
@[simp] theorem opl_openHandshake : (s.openHandshake).opl = s.opl := rfl
@[simp] theorem chl_openHandshake : (s.openHandshake).chl = s.chl := rfl
@[simp] theorem nl_openHandshake : (s.openHandshake).nl = s.nl := rfl
@[simp] theorem ucnt_openHandshake : (s.openHandshake).ucnt = s.ucnt := rfl
@[simp] theorem inp_openHandshake : (s.openHandshake).inp = s.inp := rfl
@[simp] theorem inpEpoch_openHandshake : (s.openHandshake).inpEpoch = s.inpEpoch := rfl
@[simp] theorem out_openHandshake : (s.openHandshake).out = s.out := rfl
@[simp] theorem outEpoch_openHandshake : (s.openHandshake).outEpoch = s.outEpoch := rfl
@[simp] theorem host_openHandshake : (s.openHandshake).host = { s.host with awaitingDone := true } := rfl
@[simp] theorem schedule_openHandshake : (s.openHandshake).schedule = s.schedule := rfl

/-! ### `closeHandshake` -/

@[simp] theorem params_closeHandshake : (s.closeHandshake).params = s.params := rfl
@[simp] theorem slots_closeHandshake : (s.closeHandshake).slots = s.slots := rfl
@[simp] theorem cmd_closeHandshake : (s.closeHandshake).cmd = s.cmd := rfl
@[simp] theorem inLen_closeHandshake : (s.closeHandshake).inLen = s.inLen := rfl
@[simp] theorem status_closeHandshake : (s.closeHandshake).status = s.status := rfl
@[simp] theorem outLen_closeHandshake : (s.closeHandshake).outLen = s.outLen := rfl
@[simp] theorem opl_closeHandshake : (s.closeHandshake).opl = s.opl := rfl
@[simp] theorem chl_closeHandshake : (s.closeHandshake).chl = s.chl := rfl
@[simp] theorem nl_closeHandshake : (s.closeHandshake).nl = s.nl := rfl
@[simp] theorem ucnt_closeHandshake : (s.closeHandshake).ucnt = s.ucnt := rfl
@[simp] theorem inp_closeHandshake : (s.closeHandshake).inp = s.inp := rfl
@[simp] theorem inpEpoch_closeHandshake : (s.closeHandshake).inpEpoch = s.inpEpoch := rfl
@[simp] theorem out_closeHandshake : (s.closeHandshake).out = s.out := rfl
@[simp] theorem outEpoch_closeHandshake : (s.closeHandshake).outEpoch = s.outEpoch := rfl
@[simp] theorem host_closeHandshake : (s.closeHandshake).host = { s.host with awaitingDone := false } := rfl
@[simp] theorem schedule_closeHandshake : (s.closeHandshake).schedule = s.schedule := rfl

/-! ### `countDraw` -/

@[simp] theorem params_countDraw : (s.countDraw).params = s.params := rfl
@[simp] theorem slots_countDraw : (s.countDraw).slots = s.slots := rfl
@[simp] theorem cmd_countDraw : (s.countDraw).cmd = s.cmd := rfl
@[simp] theorem inLen_countDraw : (s.countDraw).inLen = s.inLen := rfl
@[simp] theorem status_countDraw : (s.countDraw).status = s.status := rfl
@[simp] theorem outLen_countDraw : (s.countDraw).outLen = s.outLen := rfl
@[simp] theorem opl_countDraw : (s.countDraw).opl = s.opl := rfl
@[simp] theorem chl_countDraw : (s.countDraw).chl = s.chl := rfl
@[simp] theorem nl_countDraw : (s.countDraw).nl = s.nl := rfl
@[simp] theorem ucnt_countDraw : (s.countDraw).ucnt = s.ucnt := rfl
@[simp] theorem inp_countDraw : (s.countDraw).inp = s.inp := rfl
@[simp] theorem inpEpoch_countDraw : (s.countDraw).inpEpoch = s.inpEpoch := rfl
@[simp] theorem out_countDraw : (s.countDraw).out = s.out := rfl
@[simp] theorem outEpoch_countDraw : (s.countDraw).outEpoch = s.outEpoch := rfl
@[simp] theorem host_countDraw : (s.countDraw).host = { s.host with draws := s.host.draws + 1 } := rfl
@[simp] theorem schedule_countDraw : (s.countDraw).schedule = s.schedule := rfl

/-! ### `jumpHost` -/

@[simp] theorem params_jumpHost (p : Nat) : (s.jumpHost p).params = s.params := rfl
@[simp] theorem slots_jumpHost (p : Nat) : (s.jumpHost p).slots = s.slots := rfl
@[simp] theorem cmd_jumpHost (p : Nat) : (s.jumpHost p).cmd = s.cmd := rfl
@[simp] theorem inLen_jumpHost (p : Nat) : (s.jumpHost p).inLen = s.inLen := rfl
@[simp] theorem status_jumpHost (p : Nat) : (s.jumpHost p).status = s.status := rfl
@[simp] theorem outLen_jumpHost (p : Nat) : (s.jumpHost p).outLen = s.outLen := rfl
@[simp] theorem opl_jumpHost (p : Nat) : (s.jumpHost p).opl = s.opl := rfl
@[simp] theorem chl_jumpHost (p : Nat) : (s.jumpHost p).chl = s.chl := rfl
@[simp] theorem nl_jumpHost (p : Nat) : (s.jumpHost p).nl = s.nl := rfl
@[simp] theorem ucnt_jumpHost (p : Nat) : (s.jumpHost p).ucnt = s.ucnt := rfl
@[simp] theorem inp_jumpHost (p : Nat) : (s.jumpHost p).inp = s.inp := rfl
@[simp] theorem inpEpoch_jumpHost (p : Nat) : (s.jumpHost p).inpEpoch = s.inpEpoch := rfl
@[simp] theorem out_jumpHost (p : Nat) : (s.jumpHost p).out = s.out := rfl
@[simp] theorem outEpoch_jumpHost (p : Nat) : (s.jumpHost p).outEpoch = s.outEpoch := rfl
@[simp] theorem host_jumpHost (p : Nat) : (s.jumpHost p).host = { s.host with hpc := p } := rfl
@[simp] theorem schedule_jumpHost (p : Nat) : (s.jumpHost p).schedule = s.schedule := rfl

/-! ### `takeTurn` -/

@[simp] theorem params_takeTurn : (s.takeTurn).params = s.params := rfl
@[simp] theorem slots_takeTurn : (s.takeTurn).slots = s.slots := rfl
@[simp] theorem cmd_takeTurn : (s.takeTurn).cmd = s.cmd := rfl
@[simp] theorem inLen_takeTurn : (s.takeTurn).inLen = s.inLen := rfl
@[simp] theorem status_takeTurn : (s.takeTurn).status = s.status := rfl
@[simp] theorem outLen_takeTurn : (s.takeTurn).outLen = s.outLen := rfl
@[simp] theorem opl_takeTurn : (s.takeTurn).opl = s.opl := rfl
@[simp] theorem chl_takeTurn : (s.takeTurn).chl = s.chl := rfl
@[simp] theorem nl_takeTurn : (s.takeTurn).nl = s.nl := rfl
@[simp] theorem ucnt_takeTurn : (s.takeTurn).ucnt = s.ucnt := rfl
@[simp] theorem inp_takeTurn : (s.takeTurn).inp = s.inp := rfl
@[simp] theorem inpEpoch_takeTurn : (s.takeTurn).inpEpoch = s.inpEpoch := rfl
@[simp] theorem out_takeTurn : (s.takeTurn).out = s.out := rfl
@[simp] theorem outEpoch_takeTurn : (s.takeTurn).outEpoch = s.outEpoch := rfl
@[simp] theorem host_takeTurn : (s.takeTurn).host = s.host := rfl
@[simp] theorem schedule_takeTurn : (s.takeTurn).schedule = s.schedule.tail := rfl

end Sys2Proof.Machine.State
end

