-- ==== Sys2Proof/Laws/Memory.lean ====
section
/-! SUPPORT. The laws of the sorted lists that hold the buffers and the host locals: read after write, and the canonical form. -/

namespace Sys2Proof.Machine

variable {α : Type}

@[simp] theorem lookupAt_nil (a : Nat) : lookupAt ([] : List (Nat × α)) a = none := rfl

/-- Read after write: the written key gives the value, every other key what it gave before. -/
theorem lookupAt_insertAt (m : List (Nat × α)) (a b : Nat) (v : α) :
    lookupAt (insertAt m a v) b = if b = a then some v else lookupAt m b := by
  induction m with
  | nil => simp [insertAt, lookupAt, eq_comm]
  | cons p rest ih =>
    obtain ⟨k, w⟩ := p
    by_cases h1 : a < k
    · simp [insertAt, h1, lookupAt, eq_comm]
    · by_cases h2 : a = k
      · subst h2
        by_cases hb : a = b <;> simp [insertAt, lookupAt, hb, eq_comm]
      · by_cases hb : b = a
        · subst hb
          simp [insertAt, h1, h2, lookupAt, Ne.symm h2, ih]
        · simp [insertAt, h1, h2, lookupAt, ih, hb]

@[simp] theorem lookupAt_insertAt_self (m : List (Nat × α)) (a : Nat) (v : α) :
    lookupAt (insertAt m a v) a = some v := by
  simp [lookupAt_insertAt]

theorem lookupAt_insertAt_ne (m : List (Nat × α)) {a b : Nat} (v : α) (h : b ≠ a) :
    lookupAt (insertAt m a v) b = lookupAt m b := by
  simp [lookupAt_insertAt, h]

/-- A rising list rises after its head, and from its head. -/
theorem sorted_cons {k : Nat} {w : α} {rest : List (Nat × α)} :
    sorted ((k, w) :: rest) = true ↔ (∀ p ∈ rest.head?, k < p.1) ∧ sorted rest = true := by
  cases rest with
  | nil => simp [sorted]
  | cons p r => simp [sorted]

theorem head?_insertAt (m : List (Nat × α)) (a : Nat) (v : α) (p : Nat × α) :
    p ∈ (insertAt m a v).head? → p.1 = a ∨ p ∈ m.head? := by
  cases m with
  | nil => rintro h; simp [insertAt] at h; simp [← h]
  | cons q r =>
    obtain ⟨k, w⟩ := q
    unfold insertAt
    split
    · intro h; simp at h; simp [← h]
    · split
      · intro h; simp at h; simp [← h]
      · intro h; simp at h; simp [h]

/-- Every write keeps the canonical form. -/
theorem sorted_insertAt (m : List (Nat × α)) (a : Nat) (v : α) (h : sorted m = true) :
    sorted (insertAt m a v) = true := by
  induction m with
  | nil => rfl
  | cons p rest ih =>
    obtain ⟨k, w⟩ := p
    obtain ⟨hh, hr⟩ := sorted_cons.1 h
    unfold insertAt
    split
    · next h1 => exact sorted_cons.2 ⟨by simpa using h1, h⟩
    · next h1 =>
      split
      · next h2 => subst h2; exact sorted_cons.2 ⟨hh, hr⟩
      · next h2 =>
        refine sorted_cons.2 ⟨fun q hq => ?_, ih hr⟩
        rcases head?_insertAt rest a v q hq with hq | hq
        · omega
        · exact hh q hq

theorem Memory.wf_insertAt {m : Memory} (a : Nat) (v : Byte) (h : Memory.wf m = true) :
    Memory.wf (insertAt m a v) = true :=
  sorted_insertAt m a v h

theorem Memory.wf_nil : Memory.wf [] = true := rfl

/-- A bound on the listed keys, kept by a write below it. -/
theorem lookupAt_insertAt_bound {m : List (Nat × α)} {n a : Nat} {v : α}
    (h : ∀ b, lookupAt m b ≠ none → b < n) (ha : a < n) :
    ∀ b, lookupAt (insertAt m a v) b ≠ none → b < n := by
  intro b hb
  rw [lookupAt_insertAt] at hb
  split at hb
  · next e => omega
  · exact h b hb

end Sys2Proof.Machine
end

