-- ==== Sys2Proof/Laws/Ops.lean ====
section
/-! SUPPORT. The laws of the slots, the buffers, `STATUS` and the shared steps of a command's life. -/

namespace Sys2Proof.Machine

variable (s : State)

/-! ## Slots -/

@[simp] theorem slot_setSlot_self (c : Fin 4) (v : Slot) : (s.setSlot c v).slot c = v := by
  simp [State.slot]

theorem slot_setSlot_ne {c d : Fin 4} (v : Slot) (h : d ≠ c) : (s.setSlot c v).slot d = s.slot d := by
  have : c.val ≠ d.val := fun e => h (Fin.ext e.symm)
  simp [State.slot, this]

theorem slot_setSlot (c d : Fin 4) (v : Slot) : (s.setSlot c v).slot d = if d = c then v else s.slot d := by
  by_cases h : d = c
  · subst h; simp
  · simp [h, slot_setSlot_ne]

@[simp] theorem slot_accept (op : Op) (l : Layout) (c : Fin 4) : (s.accept op l).slot c = Slot.zero := by
  simp [State.slot]

@[simp] theorem slot_writeSample (j : Nat) (v : Sample) (c : Fin 4) : (s.writeSample j v).slot c = s.slot c := by
  simp only [State.slot, State.slots_writeSample]
@[simp] theorem slot_writeCode (j : Nat) (b : Byte) (c : Fin 4) : (s.writeCode j b).slot c = s.slot c := by
  simp only [State.slot, State.slots_writeCode]
@[simp] theorem slot_advanceUnit (c : Fin 4) : (s.advanceUnit).slot c = s.slot c := by
  simp only [State.slot, State.slots_advanceUnit]
@[simp] theorem slot_complete (op : Op) (l : Layout) (c : Fin 4) : (s.complete op l).slot c = s.slot c := by
  simp only [State.slot, State.slots_complete]

/-! ## Buffers -/

@[simp] theorem inByte_writeSample (j : Nat) (v : Sample) (a : Nat) : (s.writeSample j v).inByte a = s.inByte a := by
  simp only [State.inByte, State.inp_writeSample, State.inpEpoch_writeSample]
@[simp] theorem inByte_writeCode (j : Nat) (b : Byte) (a : Nat) : (s.writeCode j b).inByte a = s.inByte a := by
  simp only [State.inByte, State.inp_writeCode, State.inpEpoch_writeCode]
@[simp] theorem inByte_setSlot (c : Fin 4) (v : Slot) (a : Nat) : (s.setSlot c v).inByte a = s.inByte a := by
  simp only [State.inByte, State.inp_setSlot, State.inpEpoch_setSlot]
@[simp] theorem inByte_accept (op : Op) (l : Layout) (a : Nat) : (s.accept op l).inByte a = s.inByte a := by
  simp only [State.inByte, State.inp_accept, State.inpEpoch_accept]
@[simp] theorem inByte_advanceUnit (a : Nat) : s.advanceUnit.inByte a = s.inByte a := by
  simp only [State.inByte, State.inp_advanceUnit, State.inpEpoch_advanceUnit]
@[simp] theorem outByte_setSlot (c : Fin 4) (v : Slot) (a : Nat) : (s.setSlot c v).outByte a = s.outByte a := by
  simp only [State.outByte, State.out_setSlot, State.outEpoch_setSlot]
@[simp] theorem outByte_advanceUnit (a : Nat) : s.advanceUnit.outByte a = s.outByte a := by
  simp only [State.outByte, State.out_advanceUnit, State.outEpoch_advanceUnit]
@[simp] theorem outByte_complete (op : Op) (l : Layout) (a : Nat) : (s.complete op l).outByte a = s.outByte a := by
  simp only [State.outByte, State.out_complete, State.outEpoch_complete]

@[simp] theorem outCell_advanceUnit (j : Nat) : s.advanceUnit.outCell j = s.outCell j := by
  simp only [State.outCell, outByte_advanceUnit]
@[simp] theorem outCell_setSlot (c : Fin 4) (v : Slot) (j : Nat) : (s.setSlot c v).outCell j = s.outCell j := by
  simp only [State.outCell, outByte_setSlot]
@[simp] theorem outCell_complete (op : Op) (l : Layout) (j : Nat) : (s.complete op l).outCell j = s.outCell j := by
  simp only [State.outCell, outByte_complete]
@[simp] theorem readCode_setSlot (c : Fin 4) (v : Slot) (i : Nat) : (s.setSlot c v).readCode i = s.readCode i := by
  simp only [State.readCode, inByte_setSlot]
@[simp] theorem readSample_setSlot (c : Fin 4) (v : Slot) (i : Nat) : (s.setSlot c v).readSample i = s.readSample i := by
  simp only [State.readSample, State.inCell, inByte_setSlot]

/-- A byte of `OUT` after a sample is written. -/
theorem outByte_writeSample (j : Nat) (v : Sample) (a : Nat) :
    (s.writeSample j v).outByte a =
      if a = 2 * j + 1 then v.extractLsb' 8 8 else if a = 2 * j then v.extractLsb' 0 8 else s.outByte a := by
  unfold State.outByte
  simp only [State.out_writeSample, State.outEpoch_writeSample, lookupAt_insertAt]
  split
  · rfl
  · split <;> rfl

/-- A byte of `OUT` after a code byte is written. -/
theorem outByte_writeCode (j : Nat) (b : Byte) (a : Nat) :
    (s.writeCode j b).outByte a = if a = 2 * j then b else s.outByte a := by
  unfold State.outByte
  simp only [State.out_writeCode, State.outEpoch_writeCode, lookupAt_insertAt]
  split <;> rfl

/-- A sample is its two bytes. -/
theorem append_extract (v : BitVec 16) : (v.extractLsb' 8 8 ++ v.extractLsb' 0 8 : BitVec (8 + 8)) = v := by
  ext i hi
  simp only [BitVec.getElem_append, BitVec.getElem_extractLsb']
  split <;> simp_all [BitVec.getLsbD_eq_getElem]

/-- A cell of `OUT` after a sample is written. -/
theorem outCell_writeSample (j k : Nat) (v : Sample) :
    (s.writeSample j v).outCell k = if k = j then v else s.outCell k := by
  unfold State.outCell
  simp only [outByte_writeSample]
  by_cases h : k = j
  · subst h
    simp [append_extract]
  · have h1 : ¬ 2 * k + 1 = 2 * j + 1 := by omega
    have h2 : ¬ 2 * k + 1 = 2 * j := by omega
    have h3 : ¬ 2 * k = 2 * j + 1 := by omega
    have h4 : ¬ 2 * k = 2 * j := by omega
    simp [h]; simp [h2, h3]

/-- A cell of `IN` after the host writes one. -/
theorem inCell_writeInCell (i k : Nat) (v : BitVec 16) :
    (s.writeInCell i v).inCell k = if k = i then v else s.inCell k := by
  unfold State.inCell State.inByte
  simp only [State.inp_writeInCell, State.inpEpoch_writeInCell, lookupAt_insertAt]
  by_cases h : k = i
  · subst h
    simp [append_extract]
  · have h2 : ¬ 2 * k + 1 = 2 * i := by omega
    have h3 : ¬ 2 * k = 2 * i + 1 := by omega
    simp [h]; simp [h2, h3]

theorem readCode_eq_inCell (i : Nat) : s.readCode i = (s.inCell i).extractLsb' 0 8 := by
  unfold State.readCode State.inCell
  ext j hj
  simp only [BitVec.getElem_extractLsb', BitVec.getLsbD_append]
  simp [hj]

/-! ## The canonical form: every operation on the buffers keeps it -/

theorem wf_writeSample (j : Nat) (v : Sample) (h : s.out.wf = true) : (s.writeSample j v).out.wf = true :=
  Memory.wf_insertAt _ _ (Memory.wf_insertAt _ _ h)

theorem wf_writeCode (j : Nat) (b : Byte) (h : s.out.wf = true) : (s.writeCode j b).out.wf = true :=
  Memory.wf_insertAt _ _ h

theorem wf_writeInCell (i : Nat) (v : BitVec 16) (h : s.inp.wf = true) : (s.writeInCell i v).inp.wf = true :=
  Memory.wf_insertAt _ _ (Memory.wf_insertAt _ _ h)

theorem wf_writeInByte (i : Nat) (b : Byte) (h : s.inp.wf = true) : (s.writeInByte i b).inp.wf = true :=
  Memory.wf_insertAt _ _ h

theorem wf_forgetOut : s.forgetOut.out.wf = true := rfl

theorem wf_forgetIn : s.forgetIn.inp.wf = true := rfl

theorem wf_reset : State.reset.inp.wf = true ∧ State.reset.out.wf = true := ⟨rfl, rfl⟩

/-! ## `STATUS` -/

@[simp] theorem busy_accept (op : Op) (l : Layout) : (s.accept op l).busy = true := by
  simp only [State.busy, State.status_accept]; decide
@[simp] theorem busy_complete (op : Op) (l : Layout) : (s.complete op l).busy = false := by
  simp only [State.busy, State.status_complete]
  cases truncated op l s.nl.toNat <;> decide
@[simp] theorem busy_raiseUnsupportedLayout (op : Op) (c : BitVec 8) : (s.raiseUnsupportedLayout op c).busy = false := by
  simp only [State.busy, State.status_raiseUnsupportedLayout]; decide
@[simp] theorem busy_resetCore : s.resetCore.busy = false := by
  simp only [State.busy, State.status_resetCore]; decide
@[simp] theorem busy_advanceUnit : s.advanceUnit.busy = s.busy := by
  simp only [State.busy, State.status_advanceUnit]
@[simp] theorem busy_advanceHost : s.advanceHost.busy = s.busy := by
  simp only [State.busy, State.status_advanceHost]
@[simp] theorem busy_openHandshake : s.openHandshake.busy = s.busy := by
  simp only [State.busy, State.status_openHandshake]
@[simp] theorem busy_closeHandshake : s.closeHandshake.busy = s.busy := by
  simp only [State.busy, State.status_closeHandshake]
@[simp] theorem busy_noteRead (r : Nat) : (s.noteRead r).busy = s.busy := by
  simp only [State.busy, State.status_noteRead]
@[simp] theorem busy_countDraw : s.countDraw.busy = s.busy := by
  simp only [State.busy, State.status_countDraw]
@[simp] theorem busy_takeTurn : s.takeTurn.busy = s.busy := by
  simp only [State.busy, State.status_takeTurn]
@[simp] theorem busy_setSlot (c : Fin 4) (v : Slot) : (s.setSlot c v).busy = s.busy := by
  simp only [State.busy, State.status_setSlot]
@[simp] theorem busy_writeSample (j : Nat) (v : Sample) : (s.writeSample j v).busy = s.busy := by
  simp only [State.busy, State.status_writeSample]
@[simp] theorem busy_writeCode (j : Nat) (b : Byte) : (s.writeCode j b).busy = s.busy := by
  simp only [State.busy, State.status_writeCode]

theorem legalStatus_doneStatus (t : Bool) : legalStatus (doneStatus t) = true := by cases t <;> decide

/-! ## The life of a command -/

/-- What a command does with one unit (R144, R145, R148, R151, R152, R154). -/
def unitOf : Op → Layout → State → Nat → State
  | .decode, .mono => decMonoUnit
  | .decode, .stereo => decStereoUnit
  | .decode, .quad => decQuadUnit
  | .encode, .mono => encMonoUnit
  | .encode, .stereo => encStereoUnit
  | .encode, .quad => encQuadUnit

/-- The six commands share one life. -/
theorem exec_ofCommand (op : Op) (l : Layout) : exec (.ofCommand op l) s = command op l (unitOf op l) s := by
  cases op <;> cases l <;> rfl

/-- Everything a command's step can do when it goes on (R183, R160, R184). -/
theorem command_next {op : Op} {l : Layout} {unit : State → Nat → State} {s t : State}
    (h : command op l unit s = .next t) :
    (s.busy = false ∧ s.inLen.toNat ≤ s.params.inCapacity ∧ t = s.accept op l) ∨
    (s.busy = true ∧ s.opl = op ∧ s.chl = l ∧ s.ucnt.toNat < unitCount op l s.nl.toNat ∧
      t = (unit s s.ucnt.toNat).advanceUnit) ∨
    (s.busy = true ∧ s.opl = op ∧ s.chl = l ∧ ¬ s.ucnt.toNat < unitCount op l s.nl.toNat ∧ t = s.complete op l) := by
  unfold command sequencer at h
  split at h
  · next hb =>
    split at h
    · next hl =>
      split at h
      · next hu => cases h; exact .inr (.inl ⟨hb, hl.1, hl.2, hu, rfl⟩)
      · next hu => cases h; exact .inr (.inr ⟨hb, hl.1, hl.2, hu, rfl⟩)
    · cases h
  · next hb =>
    split at h
    · cases h
    · next hc => cases h; exact .inl ⟨by simpa using hb, by omega, rfl⟩

end Sys2Proof.Machine
end

