-- ==== Sys2Proof/Laws/Step.lean ====
section
/-! SUPPORT. Everything one step can do: the inversion lemmas of the host's operations, the core's turn and the step. -/

namespace Sys2Proof.Machine

/-- The ways a step of the host can change what is not the host's (R29, R51, R180, R230). -/
inductive HostEffect (s : State) (op : HostOp) : State → Prop where
  /-- Nothing but the host itself changes: a read, a branch, a label, `HALT`, an ignored register write. Its handshake
  changes only while `DONE = 1`. -/
  | hostOnly (h : HostState) (handshake : h.awaitingDone = s.host.awaitingDone ∨ s.done = true) :
    HostEffect s op { s with host := h }
  /-- A write of `IN_LEN`. -/
  | writeInLen (v : Word) (idle : s.busy = false) : HostEffect s op { s.advanceHost with inLen := v }
  /-- A write of one whole cell of `IN`. -/
  | writeInCell (i : Nat) (v : BitVec 16) (idle : s.busy = false) (within : i < s.inExtent) :
    HostEffect s op (s.advanceHost.writeInCell i v)
  /-- A write of one code byte of `IN`. -/
  | writeInByte (i : Nat) (b : Byte) (idle : s.busy = false) (within : i < s.inExtent) :
    HostEffect s op (s.advanceHost.writeInByte i b)
  /-- An accepted START. -/
  | accept (w : Word) (o : Op) (l : Layout) (isStart : op = .wreg 0 w) (idle : s.busy = false)
    (fits : s.inLen.toNat ≤ s.params.inCapacity) : HostEffect s op (s.advanceHost.openHandshake.accept o l)
  /-- A START that completes with `UnsupportedChannelLayout`. -/
  | unsupported (w : Word) (o : Op) (c : BitVec 8) (isStart : op = .wreg 0 w) (idle : s.busy = false) :
    HostEffect s op (s.advanceHost.openHandshake.raiseUnsupportedLayout o c)
  /-- The reset input. -/
  | reset (isReset : op = .assertReset) : HostEffect s op s.advanceHost.closeHandshake.resetCore

/-- A command written by an idle host is accepted, or completes with the error. -/
theorem exec_idle_next {i : Instr} {s t : State} (hb : s.busy = false) (h : exec i s = .next t) :
    s.inLen.toNat ≤ s.params.inCapacity ∧
      ((∃ o l, t = s.accept o l) ∨ ∃ o c, t = s.raiseUnsupportedLayout o c) := by
  have ofCommand : ∀ o l, exec (.ofCommand o l) s = .next t →
      s.inLen.toNat ≤ s.params.inCapacity ∧
        ((∃ o l, t = s.accept o l) ∨ ∃ o c, t = s.raiseUnsupportedLayout o c) := by
    intro o l h
    rw [exec_ofCommand] at h
    rcases command_next h with ⟨_, hl, ht⟩ | ⟨hb', _⟩ | ⟨hb', _⟩
    · exact ⟨hl, .inl ⟨o, l, ht⟩⟩
    · rw [hb] at hb'; cases hb'
    · rw [hb] at hb'; cases hb'
  cases i with
  | decMono => exact ofCommand .decode .mono h
  | decStereo => exact ofCommand .decode .stereo h
  | decQuad => exact ofCommand .decode .quad h
  | encMono => exact ofCommand .encode .mono h
  | encStereo => exact ofCommand .encode .stereo h
  | encQuad => exact ofCommand .encode .quad h
  | unsupportedLayout o c =>
    simp only [exec, execUnsupportedLayout, hb, Bool.false_eq_true, if_false] at h
    split at h
    · cases h
    · next hc => cases h; exact ⟨by omega, .inr ⟨o, c, rfl⟩⟩

/-- A host write to `IN` that goes on was within the extent, at an idle core. -/
theorem hostWriteIn_next {i : Nat} {write : State → State} {s t : State} (h : hostWriteIn i write s = .next t) :
    i < s.inExtent ∧ s.busy = false ∧ t = write s := by
  unfold hostWriteIn at h
  split at h
  · cases h
  · split at h
    · cases h
    · next h1 h2 => cases h; exact ⟨by omega, by simpa using h2, rfl⟩

/-- A host read that goes on changes only the host. -/
theorem hostReadIn_next {x i : Nat} {ty : UnitType} {s t : State} (h : hostReadIn x ty i s = .next t) :
    ∃ v, t = s.setHostLocal x v := by
  unfold hostReadIn at h
  split at h
  · cases h
  · cases h; exact ⟨_, rfl⟩

/-- A host read of `OUT` that goes on changes only the host's locals and its count of undefined reads. -/
theorem hostReadOut_next {x j : Nat} {s t : State} (h : hostReadOut x j s = .next t) :
    ∃ v, t = s.setHostLocal x v ∨ t = s.countDraw.setHostLocal x v := by
  unfold hostReadOut at h
  split at h
  · cases h
  · split at h
    · cases h
    · split at h
      · cases h; exact ⟨_, .inr rfl⟩
      · cases h; exact ⟨_, .inl rfl⟩

/-- A host read of a register that goes on changes only the host. -/
theorem hostReadReg_next {x r : Nat} {s t : State} (h : hostReadReg x r s = .next t) :
    ∃ v, t = (s.noteRead r).setHostLocal x v := by
  unfold hostReadReg at h
  split at h
  · cases h; exact ⟨_, rfl⟩
  · cases h

/-- A branch that goes on changes only where the host is. -/
theorem hostBranch_next {x b n : Nat} {s t : State} (h : hostBranch x b n s = .next t) :
    t = s ∨ ∃ p, t = s.jumpHost p := by
  unfold hostBranch at h
  split at h
  · cases h; exact .inl rfl
  · split at h
    · cases h; exact .inr ⟨_, rfl⟩
    · cases h

/-- What a host read of `OUT` changes, as an effect. -/
theorem hostReadOut_effect {op : HostOp} {x j : Nat} {s t : State} (h : hostReadOut x j s.advanceHost = .next t) :
    HostEffect s op t := by
  obtain ⟨v, rfl | rfl⟩ := hostReadOut_next h
  · exact .hostOnly _ (.inl rfl)
  · exact .hostOnly _ (.inl rfl)

/-- A host read of `IN`, as an effect. -/
theorem hostReadIn_effect {op : HostOp} {x i : Nat} {ty : UnitType} {s t : State}
    (h : hostReadIn x ty i s.advanceHost = .next t) : HostEffect s op t := by
  obtain ⟨v, rfl⟩ := hostReadIn_next h
  exact .hostOnly _ (.inl rfl)

/-- Everything a host operation can do when it goes on. -/
theorem hostStep_next {op : HostOp} {s t : State} (h : hostStep op s = .next t) : HostEffect s op t := by
  cases op with
  | win i v =>
    simp only [hostStep] at h
    obtain ⟨h1, h2, rfl⟩ := hostWriteIn_next h
    exact .writeInCell i v (by simpa using h2) h1
  | wreg r v =>
    simp only [hostStep, hostWriteReg, busy_advanceHost] at h
    split at h
    · cases h
    · split at h
      · cases h
      · next hb =>
        have hb : s.busy = false := by simpa using hb
        split at h
        · next hr =>
          subst hr
          unfold startCommand at h
          split at h
          · cases h
          · obtain ⟨hl, ⟨o, l, rfl⟩ | ⟨o, c, rfl⟩⟩ := exec_idle_next (by simpa using hb) h
            · exact .accept v o l rfl hb hl
            · exact .unsupported v o c rfl hb
        · split at h
          · cases h; exact .writeInLen v hb
          · cases h; exact .hostOnly _ (.inl rfl)
  | rreg x r =>
    obtain ⟨v, rfl⟩ := hostReadReg_next h
    refine .hostOnly _ ?_
    cases h : s.done
    · left
      show (s.host.awaitingDone && !(r == 2 && s.done)) = s.host.awaitingDone
      simp [h]
    · exact .inr rfl
  | rin x ty i => exact hostReadIn_effect h
  | rout x j => exact hostReadOut_effect h
  | label n => cases h; exact .hostOnly _ (.inl rfl)
  | brbit0 x b n =>
    rcases hostBranch_next h with rfl | ⟨p, rfl⟩
    · exact .hostOnly _ (.inl rfl)
    · exact .hostOnly _ (.inl rfl)
  | halt => cases h; exact .hostOnly s.host (.inl rfl)
  | busWriteIn ty w off v =>
    simp only [hostStep, hostBusWriteIn] at h
    split at h
    · cases h
    · next i _ =>
      split at h
      · obtain ⟨h1, h2, rfl⟩ := hostWriteIn_next h
        exact .writeInByte i _ (by simpa using h2) h1
      · obtain ⟨h1, h2, rfl⟩ := hostWriteIn_next h
        exact .writeInCell i v (by simpa using h2) h1
  | busReadIn x ty w off =>
    simp only [hostStep, hostBusReadIn] at h
    split at h
    · cases h
    · exact hostReadIn_effect h
  | busReadOut x w off =>
    simp only [hostStep, hostBusReadOut] at h
    split at h
    · cases h
    · exact hostReadOut_effect h
  | assertReset => cases h; exact .reset rfl

/-- The ways the core's turn can end (R160, R184, R216). -/
inductive CoreEffect (s : State) : State → Prop where
  /-- An idle core holds all its state. -/
  | idle (isIdle : s.busy = false) : CoreEffect s s
  /-- One unit. -/
  | unit (isBusy : s.busy = true) (more : s.ucnt.toNat < unitCount s.opl s.chl s.nl.toNat) :
    CoreEffect s (unitOf s.opl s.chl s s.ucnt.toNat).advanceUnit
  /-- The completion. -/
  | complete (isBusy : s.busy = true) (noMore : ¬ s.ucnt.toNat < unitCount s.opl s.chl s.nl.toNat) :
    CoreEffect s (s.complete s.opl s.chl)

/-- Everything the core's turn can do when it goes on. -/
theorem coreTurn_next {s t : State} (h : coreTurn s = .next t) : CoreEffect s t := by
  unfold coreTurn at h
  split at h
  · next hb =>
    rw [State.latchedInstr, exec_ofCommand] at h
    rcases command_next h with ⟨hb', _⟩ | ⟨_, _, _, hu, rfl⟩ | ⟨_, _, _, hu, rfl⟩
    · rw [hb] at hb'; cases hb'
    · exact .unit hb hu
    · exact .complete hb hu
  · next hb => cases h; exact .idle (by simpa using hb)

/-- The core's turn always goes on. -/
theorem coreTurn_completes (s : State) : ∃ t, coreTurn s = .next t := by
  unfold coreTurn
  split
  · next hb =>
    rw [State.latchedInstr, exec_ofCommand, command, sequencer]
    simp only [hb, and_self, if_true]
    split <;> exact ⟨_, rfl⟩
  · exact ⟨_, rfl⟩

/-- Everything a step can do when it goes on: the core's turn, or the operation the host is at, or nothing by a host whose
program has ended. -/
theorem step_next {s t : State} (h : step s = .next t) :
    (s.nextAgent = .core ∧ CoreEffect s.takeTurn t) ∨
    (s.nextAgent = .host ∧ ∃ op, s.hostOp = some op ∧ HostEffect s.takeTurn op t) ∨
    (s.nextAgent = .host ∧ s.hostOp = none ∧ t = s.takeTurn) := by
  unfold step turn at h
  split at h
  · next ha => exact .inl ⟨ha, coreTurn_next h⟩
  · next ha =>
    unfold hostTurn at h
    have hop : s.takeTurn.hostOp = s.hostOp := rfl
    rw [hop] at h
    split at h
    · next op ho => exact .inr (.inl ⟨ha, op, ho, hostStep_next h⟩)
    · next ho => cases h; exact .inr (.inr ⟨ha, ho, rfl⟩)

/-- What a unit leaves alone, whichever command it belongs to (R160). -/
theorem unitOf_frame (op : Op) (l : Layout) (s : State) (u : Nat) :
    (unitOf op l s u).params = s.params ∧ (unitOf op l s u).cmd = s.cmd ∧ (unitOf op l s u).inLen = s.inLen ∧
    (unitOf op l s u).status = s.status ∧ (unitOf op l s u).outLen = s.outLen ∧ (unitOf op l s u).opl = s.opl ∧
    (unitOf op l s u).chl = s.chl ∧ (unitOf op l s u).nl = s.nl ∧ (unitOf op l s u).ucnt = s.ucnt ∧
    (unitOf op l s u).inp = s.inp ∧ (unitOf op l s u).inpEpoch = s.inpEpoch ∧
    (unitOf op l s u).outEpoch = s.outEpoch ∧ (unitOf op l s u).host = s.host ∧
    (unitOf op l s u).schedule = s.schedule := by
  cases op <;> cases l <;> exact ⟨rfl, rfl, rfl, rfl, rfl, rfl, rfl, rfl, rfl, rfl, rfl, rfl, rfl, rfl⟩

/-- `UCNT + 1` does not wrap while a unit is left (R30). -/
theorem ucnt_succ {s : State} {op : Op} {l : Layout} (hu : s.ucnt.toNat < unitCount op l s.nl.toNat) :
    (s.ucnt + 1#32).toNat = s.ucnt.toNat + 1 := by
  have h1 := unitCount_le op l s.nl.toNat
  have h2 := s.nl.isLt
  have h3 : (1#32).toNat = 1 := rfl
  rw [BitVec.toNat_add, h3, Nat.mod_eq_of_lt (by omega)]

end Sys2Proof.Machine
end

