-- ==== Sys2Proof/Laws/Life.lean ====
section
/-! SUPPORT. The life of a command as a sequence of states: the START, the unit steps and the completion, and what no unit step changes. -/

namespace Sys2Proof.Machine

/-- The START of a command from a startable state. -/
theorem exec_startable (op : Op) (l : Layout) {s : State} (h : s.startable) :
    exec (.ofCommand op l) s = .next (s.accept op l) := by
  obtain ⟨hb, hl⟩ := h
  rw [exec_ofCommand, command, hb]
  simp [Nat.not_lt.2 hl]

/-- A step of the running command while a unit is left. -/
theorem exec_unit {op : Op} {l : Layout} {s : State} (h : s.running op l)
    (hu : s.ucnt.toNat < unitCount op l s.nl.toNat) :
    exec (.ofCommand op l) s = .next (unitOf op l s s.ucnt.toNat).advanceUnit := by
  obtain ⟨hb, ho, hl⟩ := h
  rw [exec_ofCommand, command, sequencer]; simp [hb, ho, hl, hu]

/-- A step of the running command when no unit is left. -/
theorem exec_noUnit {op : Op} {l : Layout} {s : State} (h : s.running op l)
    (hu : ¬ s.ucnt.toNat < unitCount op l s.nl.toNat) :
    exec (.ofCommand op l) s = .next (s.complete op l) := by
  obtain ⟨hb, ho, hl⟩ := h
  rw [exec_ofCommand, command, sequencer]; simp [hb, ho, hl, hu]

/-- One more step at the end of a run of `exec`. -/
theorem execTimes_succ {i : Instr} {k : Nat} {s t : State} (h : execTimes i k s = .next t) :
    execTimes i (k + 1) s = exec i t := by
  induction k generalizing s with
  | zero => cases h; simp only [execTimes]; cases hh : exec i t <;> rfl
  | succ k ih =>
    rw [execTimes] at h ⊢
    cases hs : exec i s with
    | next u => simp only [hs] at h ⊢; exact ih h
    | fault r => simp [hs] at h
    | refused r => simp [hs] at h

/-- The state after the START and `k` units. -/
def afterUnits (op : Op) (l : Layout) (s : State) : Nat → State
  | 0 => s.accept op l
  | k + 1 => (unitOf op l (afterUnits op l s k) k).advanceUnit

/-- The fields that no unit changes, and `UCNT`. -/
structure Midway (op : Op) (l : Layout) (s : State) (k : Nat) (t : State) : Prop where
  params : t.params = s.params
  inLen : t.inLen = s.inLen
  status : t.status = busyStatus
  outLen : t.outLen = 0#32
  opl : t.opl = op
  chl : t.chl = l
  nl : t.nl = s.inLen
  ucnt : t.ucnt.toNat = k
  inp : t.inp = s.inp
  inpEpoch : t.inpEpoch = s.inpEpoch
  host : t.host = s.host
  schedule : t.schedule = s.schedule

theorem midway_afterUnits (op : Op) (l : Layout) (s : State) (k : Nat) (hk : k < 4294967296) :
    Midway op l s k (afterUnits op l s k) := by
  induction k with
  | zero => exact ⟨rfl, rfl, rfl, rfl, rfl, rfl, rfl, rfl, rfl, rfl, rfl, rfl⟩
  | succ k ih =>
    have hm := ih (by omega)
    obtain ⟨b1, _, b3, b4, b5, b6, b7, b8, b9, b10, b11, _, b13, b14⟩ := unitOf_frame op l (afterUnits op l s k) k
    refine ⟨b1.trans hm.params, b3.trans hm.inLen, b4.trans hm.status, b5.trans hm.outLen, b6.trans hm.opl,
      b7.trans hm.chl, b8.trans hm.nl, ?_, b10.trans hm.inp, b11.trans hm.inpEpoch, b13.trans hm.host,
      b14.trans hm.schedule⟩
    have h1 : (1#32).toNat = 1 := rfl
    simp only [afterUnits, State.ucnt_advanceUnit]
    rw [b9, BitVec.toNat_add, hm.ucnt, h1, Nat.mod_eq_of_lt (by omega)]

theorem running_of_midway {op : Op} {l : Layout} {s t : State} {k : Nat} (h : Midway op l s k t) : t.running op l := by
  refine ⟨?_, h.opl, h.chl⟩
  simp only [State.busy, h.status]; decide

theorem unitCount_lt (op : Op) (l : Layout) (s : State) : unitCount op l s.inLen.toNat < 4294967296 := by
  have h1 := unitCount_le op l s.inLen.toNat
  have h2 := s.inLen.isLt
  omega

/-- The START and the first `k` units. -/
theorem execTimes_units (op : Op) (l : Layout) {s : State} (h : s.startable) (k : Nat)
    (hk : k ≤ unitCount op l s.inLen.toNat) :
    execTimes (.ofCommand op l) (1 + k) s = .next (afterUnits op l s k) := by
  have hu := unitCount_lt op l s
  induction k with
  | zero => rw [execTimes_succ (k := 0) (t := s) rfl, exec_startable op l h]; rfl
  | succ k ih =>
    rw [show 1 + (k + 1) = (1 + k) + 1 by omega, execTimes_succ (ih (by omega))]
    have hm := midway_afterUnits op l s k (by omega)
    rw [exec_unit (running_of_midway hm) (by rw [hm.ucnt, hm.nl]; omega), hm.ucnt]
    rfl

end Sys2Proof.Machine
end

