-- ==== Sys2Proof/Laws/PerInstr.lean ====
section
/-! SUPPORT. What holds of every command as syntax, one lemma per constructor. -/

namespace Sys2Proof.Laws.EncodeClean

/-- The word of a command has no reserved bit set (R90, R93). -/
def Statement (i : Instr) : Prop := reservedBitsSet (encode i) = false

theorem decMono : Statement .decMono := reservedBitsSet_commandWord _ _
theorem decStereo : Statement .decStereo := reservedBitsSet_commandWord _ _
theorem decQuad : Statement .decQuad := reservedBitsSet_commandWord _ _
theorem encMono : Statement .encMono := reservedBitsSet_commandWord _ _
theorem encStereo : Statement .encStereo := reservedBitsSet_commandWord _ _
theorem encQuad : Statement .encQuad := reservedBitsSet_commandWord _ _
theorem unsupportedLayout (op : Op) (channels : BitVec 8) : Statement (.unsupportedLayout op channels) :=
  reservedBitsSet_commandWord _ _

end Sys2Proof.Laws.EncodeClean
end

