-- ==== Sys2Proof/Tests/Slice0.lean ====
section
/-! SUPPORT. Small tests, each of one step or one operation, with expected values from spec/95_test_vectors.md or from a rule's own example; and, for every obligation with hypotheses, a witness that meets them. -/

namespace Sys2Proof.Tests

open Sys2Proof.Machine

/-! ## Small states -/

/-- The default table, and a capacity of 16 units. -/
def smallParams : Params := { stepTable := Config.defaultStepTable, inCapacity := 16 }

/-- Buffer cells from index `i` on. -/
def cellsFrom : Nat → List (BitVec 16) → Memory
  | _, [] => []
  | i, v :: vs => (2 * i, v.extractLsb' 0 8) :: (2 * i + 1, v.extractLsb' 8 8) :: cellsFrom (i + 1) vs

/-- An idle machine with the given input and `IN_LEN`. -/
def idle (input : List (BitVec 16)) (n : Nat) : State :=
  { State.reset with params := smallParams, inLen := BitVec.ofNat 32 n, inp := cellsFrom 0 input }

/-- The machine in which a command on that input has just been started by the host. -/
def started (op : Op) (l : Layout) (input : List (BitVec 16)) : State :=
  (idle input input.length).openHandshake.accept op l

/-- The machine in which a command without input has just completed, and the host has not read `STATUS` since its START. -/
def completed (op : Op) : State := (started op .mono []).complete op .mono

/-- The machine with the host at the first operation of a program, and the host to move. -/
def withHost (program : List HostOp) (s : State) : State :=
  { s with host := { s.host with program := program, hpc := 0 }, schedule := [.host] }

/-- The state an outcome goes on to. -/
def nextOf : Result → Option State
  | .next t => some t
  | _ => none

/-- The reason an outcome faults with. -/
def faultOf : Result → Option Fault
  | .fault r => some r
  | _ => none

/-- The reason an outcome is refused with. -/
def refusalOf : Result → Option Refusal
  | .refused r => some r
  | _ => none

/-! ## Well-formedness and decoding -/

theorem test_ill_formed_one_channel : (Instr.unsupportedLayout .decode 1#8).wellFormed = false := by decide
theorem test_ill_formed_two_channels : (Instr.unsupportedLayout .encode 2#8).wellFormed = false := by decide
theorem test_ill_formed_four_channels : (Instr.unsupportedLayout .decode 4#8).wellFormed = false := by decide
theorem test_well_formed_three_channels : (Instr.unsupportedLayout .decode 3#8).wellFormed = true := by decide

/-- Words written out from R90: `RSV1`, `CHANNELS`, `RSV0`, `OP`. -/
theorem test_decode_decMono :
    decodeWord 0b0000000000000000_00000001_0000000_0#32 = .instr .decMono := by decide
theorem test_decode_decStereo :
    decodeWord 0b0000000000000000_00000010_0000000_0#32 = .instr .decStereo := by decide
theorem test_decode_decQuad :
    decodeWord 0b0000000000000000_00000100_0000000_0#32 = .instr .decQuad := by decide
theorem test_decode_encMono :
    decodeWord 0b0000000000000000_00000001_0000000_1#32 = .instr .encMono := by decide
theorem test_decode_encStereo :
    decodeWord 0b0000000000000000_00000010_0000000_1#32 = .instr .encStereo := by decide
theorem test_decode_encQuad :
    decodeWord 0b0000000000000000_00000100_0000000_1#32 = .instr .encQuad := by decide
theorem test_decode_unsupported :
    decodeWord 0b0000000000000000_00000011_0000000_1#32 = .instr (.unsupportedLayout .encode 3#8) := by decide
/-- V6: a reserved bit wins over an illegal channel count. -/
theorem test_decode_reserved : decodeWord 0x00000302#32 = .reservedCommand := by decide
theorem test_decode_reserved_high : decodeWord 0x00010100#32 = .reservedCommand := by decide
theorem test_tableWord : decodeTableWord 32 0x00000401 = some .encQuad := by decide
theorem test_encode_encQuad : encode .encQuad = 0x00000401#32 := by decide

/-! ## The first step after reset, for every row -/

theorem test_fetch_decMono : (nextOf (step (State.reset.withFetchWord 32 0x100))).map State.chl = some .mono := by decide
theorem test_fetch_decStereo :
    (nextOf (step (State.reset.withFetchWord 32 0x200))).map State.chl = some .stereo := by decide
theorem test_fetch_decQuad : (nextOf (step (State.reset.withFetchWord 32 0x400))).map State.chl = some .quad := by decide
theorem test_fetch_encMono : (nextOf (step (State.reset.withFetchWord 32 0x101))).map State.opl = some .encode := by decide
theorem test_fetch_encStereo :
    (nextOf (step (State.reset.withFetchWord 32 0x201))).map State.opl = some .encode := by decide
theorem test_fetch_encQuad : (nextOf (step (State.reset.withFetchWord 32 0x401))).map State.opl = some .encode := by decide
theorem test_fetch_unsupported :
    (nextOf (step (State.reset.withFetchWord 32 0x300))).map State.status = some 0x00000006#32 := by decide

/-! ## The sample codec (V3) -/

theorem test_decode_sample_low : decodeSample Config.defaultStepTable ⟨0#16, 0⟩ 0x7#4 = (11#16, ⟨11#16, 8⟩) := by decide
/-- V3.2. -/
theorem test_decode_sample_mid :
    decodeSample Config.defaultStepTable ⟨1000#16, 40⟩ 0xD#4 = (537#16, ⟨537#16, 44⟩) := by decide
/-- V3.5: index ceiling and saturation together. -/
theorem test_decode_sample_ceiling :
    decodeSample Config.defaultStepTable ⟨0#16, 87⟩ 0x4#4 = (32767#16, ⟨32767#16, 88⟩) := by decide
/-- V3.6: an equal residual sets the bit. -/
theorem test_encode_sample_equal : encodeSample Config.defaultStepTable ⟨0#16, 0⟩ 3#16 = (0x2#4, ⟨3#16, 0⟩) := by decide
/-- V3.7. -/
theorem test_encode_sample_below :
    encodeSample Config.defaultStepTable ⟨1000#16, 40⟩ 1336#16 = (0x3#4, ⟨1294#16, 39⟩) := by decide
/-- V3.8: the largest residual. -/
theorem test_encode_sample_extreme :
    encodeSample Config.defaultStepTable ⟨32767#16, 88⟩ (BitVec.ofInt 16 (-32768)) = (0xF#4, ⟨BitVec.ofInt 16 (-28669), 88⟩) := by decide
/-- R155, R156. -/
theorem test_pack : pack 0x5#4 0xC#4 = 0xC5#8 ∧ lo 0xC5#8 = 0x5#4 ∧ hi 0xC5#8 = 0xC#4 := by decide

/-! ## The framer (V4) -/

theorem test_quad_block_plus_100 :
    unitCount .decode .quad 16484 = 8242 ∧ lrIndex 8241 = 16433 ∧ clIndex .decode 16484 8241 = 16483 := by decide
theorem test_quad_block_plus_one :
    unitCount .decode .quad 16385 = 8192 ∧ truncated .decode .quad 16385 = true ∧
      outLength .decode .quad 16385 = 32768 := by decide
theorem test_encode_quad_geometry : lrIndex 8192 = 16384 ∧ clIndex .encode 32772 8192 = 16385 := by decide

/-! ## One unit of each command (V5) -/

/-- A unit of `DEC.MONO` on 0x74: samples 7 and 23, slot 0 at (23, 10). -/
theorem test_unit_decMono :
    (nextOf (exec .decMono (started .decode .mono [0x74]))).map (fun t => (t.outCell 0, t.outCell 1, t.slot 0)) =
      some (7#16, 23#16, ⟨23#16, 10⟩) := by decide
theorem test_unit_decStereo :
    (nextOf (exec .decStereo (started .decode .stereo [0xF0]))).map (fun t => (t.outCell 0, t.outCell 1, t.slot 1)) =
      some (0#16, BitVec.ofInt 16 (-11), ⟨BitVec.ofInt 16 (-11), 8⟩) := by decide
theorem test_unit_decQuad :
    (nextOf (exec .decQuad (started .decode .quad [0x74, 0xF0]))).map
        (fun t => (t.outCell 0, t.outCell 1, t.outCell 2, t.outCell 3)) =
      some (7#16, 11#16, 0#16, BitVec.ofInt 16 (-11)) := by decide
theorem test_unit_encMono :
    (nextOf (exec .encMono (started .encode .mono [8, 8]))).map (fun t => (t.outByte 0, t.slot 0)) =
      some (0x05#8, ⟨9#16, 3⟩) := by decide
theorem test_unit_encStereo :
    (nextOf (exec .encStereo (started .encode .stereo [8, -8]))).map (fun t => (t.outByte 0, t.slot 1)) =
      some (0xD5#8, ⟨BitVec.ofInt 16 (-8), 4⟩) := by decide
theorem test_unit_encQuad :
    (nextOf (exec .encQuad (started .encode .quad [8, -8, 0, 11]))).map (fun t => (t.outByte 0, t.outByte 2)) =
      some (0xD5#8, 0x70#8) := by decide
/-- An input shorter than a unit: the step after START completes with `TRUNC` (V5). -/
theorem test_complete_truncated :
    (nextOf (exec .decQuad (started .decode .quad [0x77]))).map (fun t => (t.status, t.outLen)) =
      some (0x00000012#32, 0#32) := by decide
theorem test_unsupported :
    (nextOf (exec (.unsupportedLayout .encode 255#8) (idle [] 9))).map (fun t => (t.status, t.cmd)) =
      some (0x00000006#32, 0x0000FF01#32) := by decide

/-! ## Refusals, faults and host operations (V6) -/

theorem test_input_too_long : refusalOf (hostWriteReg 0 0x300#32 (idle [] 17)) = some .inputTooLong := by decide
theorem test_reserved_first : refusalOf (hostWriteReg 0 0x302#32 (idle [] 17)) = some .reservedCommand := by decide
theorem test_status_write_ignored :
    (nextOf (hostWriteReg 2 0xFFFFFFFF#32 (idle [] 1))).map State.status = some 0#32 := by decide
theorem test_start_while_busy :
    faultOf (step (withHost [.wreg 0 0x100#32] (started .decode .mono [1]))) =
      some (.hostProtocolViolation (.writeRegWhileBusy 0)) := by decide
theorem test_read_out_while_busy :
    faultOf (step (withHost [.rout 1 0] (started .decode .mono [1]))) =
      some (.hostProtocolViolation (.readOutWhileBusy 0)) := by decide
theorem test_read_status_while_busy :
    (nextOf (step (withHost [.rreg 1 2] (started .decode .mono [1])))).map (fun t => t.hostLocal 1) =
      some 0x00000001#32 := by decide
/-- R62: a completed command shows no defined `OUT` value before the host has read `DONE = 1`, and each read draws anew. -/
theorem test_read_out_before_done_is_read :
    (nextOf (hostReadOut 1 0 (completed .decode))).map (fun t => (t.hostLocal 1, t.host.draws)) =
      some (unitWord .sample (Config.undefinedRead 0), 1) := rfl
/-- R62: reading `STATUS` with `DONE = 1` ends that time. -/
theorem test_read_done_ends_the_handshake :
    (nextOf (hostReadReg 1 2 (completed .decode))).map (fun t => t.host.awaitingDone) = some false := by decide
/-- R241: a read of `STATUS` that shows `BUSY` does not end it. -/
theorem test_read_busy_keeps_the_handshake :
    (nextOf (hostReadReg 1 2 (started .decode .mono [1]))).map (fun t => t.host.awaitingDone) = some true := by decide
/-- R50, R56: while an ENCODE runs, `IN` holds samples, and a one-byte access reaches half of one. -/
theorem test_half_sample_while_encoding :
    refusalOf (hostBusReadIn 1 .code .w8 0 (started .encode .mono [1, 2])) = some (.misalignedHostAccess 0) := by decide
theorem test_read_in_while_encoding :
    (nextOf (hostReadIn 1 .code 0 (started .encode .mono [-2]))).map (fun t => t.hostLocal 1) =
      some (BitVec.ofInt 32 (-2)) := by decide
/-- R55: a sample written over the byte bus lies low byte first. -/
theorem test_bus_write :
    (nextOf (hostBusWriteIn .sample .w16 2 0x1234#16 (idle [] 0))).map State.inp =
      some [(2, 0x34#8), (3, 0x12#8)] := by decide

/-! ## Witnesses: states and operands that meet the hypotheses of each obligation, at the ends of their ranges -/

theorem witness_CommandWordsAndCommandsCorrespond :
    (Instr.unsupportedLayout .encode 255#8).wellFormed = true ∧
    decodeWord 0x0000FF01#32 = .instr (.unsupportedLayout .encode 255#8) := by decide

theorem witness_OpcodeMapRowIsTheDecodedCommand :
    decodeWord 0x00000401#32 = .instr .encQuad ∧ decodeWord 0x00000002#32 = .reservedCommand ∧
    decodeWord 0x80000100#32 = .reservedCommand := by decide

/-- The four branches of a START: reserved, too long by one, accepted at the full capacity, unsupported. -/
theorem witness_StartChecksInOrder :
    (idle [] 17).busy = false ∧ (0x00000302#32).toNat / 2 % 128 ≠ 0 ∧ (0x00010100#32).toNat / 65536 ≠ 0 ∧
    (idle [] 17).params.inCapacity < (idle [] 17).inLen.toNat ∧
    (idle [] 16).inLen.toNat ≤ (idle [] 16).params.inCapacity ∧
    (0x00000401#32).toNat = channelCount .quad * 256 + (if Op.encode = .encode then 1 else 0) ∧
    (0x00000300#32).toNat / 256 ≠ 1 ∧ (0x00000300#32).toNat / 256 ≠ 2 ∧ (0x00000300#32).toNat / 256 ≠ 4 := by decide

theorem witness_DecodeCornerCases : (0x3#4).toNat % 8 < 4 ∧ (0xB#4).toNat % 8 < 4 := by decide

theorem defaultTable_legal : StepTableLegal Config.defaultStepTable := by decide

/-- The mirrors of V1 W5. -/
theorem witness_EncoderSignSymmetry :
    StepTableLegal Config.defaultStepTable ∧ (BitVec.ofInt 16 (-1000)).toInt = -(1000#16).toInt ∧
    (BitVec.ofInt 16 (-1337)).toInt = -(1337#16).toInt := ⟨defaultTable_legal, by decide⟩

/-- One case for each clause, from (1000, 40): residuals 0, -1 and exactly 589. -/
theorem witness_EncoderResidualExtremes :
    StepTableLegal Config.defaultStepTable ∧ (999#16).toInt - (1000#16).toInt = -1 ∧
    stepSize Config.defaultStepTable 40 ≥ 8 ∧
    ((1589#16).toInt - (1000#16).toInt).natAbs ≥ stepSize Config.defaultStepTable 40 +
      stepSize Config.defaultStepTable 40 / 2 + stepSize Config.defaultStepTable 40 / 4 :=
  ⟨defaultTable_legal, by decide⟩

theorem witness_QuadAddressesCoverTheStream :
    8241 < unitCount .decode .quad 16484 ∧ 16483 < 2 * unitCount .decode .quad 16484 ∧
    8192 < unitCount .encode .quad 32772 ∧ 16385 < 2 * unitCount .encode .quad 32772 := by decide

/-- One block, and one block and a byte. -/
theorem witness_SizeCorrectionGivesInputLength :
    16384 > 0 ∧ 16384 ∣ 16384 ∧ (16384 % 16384) % 2 = 0 ∧ (16385 % 16384) % 2 = 1 := by decide

theorem witness_EncodeGeometryIsDecodeGeometry : 8192 < unitCount .encode .quad 32772 := by decide

theorem witness_AcceptedStart : (idle [1, 2] 0).startable ∧ (idle [1, 2] 16).startable := by decide

theorem witness_UnsupportedLayoutCompletesAtOnce :
    (idle [1, 2] 0).startable ∧ (idle [1, 2] 16).startable ∧ legalChannels 0#8 = false ∧ legalChannels 5#8 = false ∧
    legalChannels 255#8 = false := by decide

theorem witness_DecMonoUnitStep :
    (started .decode .mono [0x74]).running .decode .mono ∧
    (started .decode .mono [0x74]).ucnt.toNat < unitCount .decode .mono (started .decode .mono [0x74]).nl.toNat := by
  decide

theorem witness_DecStereoUnitStep :
    (started .decode .stereo [0x74]).running .decode .stereo ∧ (started .decode .stereo [0x74]).ucnt.toNat <
      unitCount .decode .stereo (started .decode .stereo [0x74]).nl.toNat := by decide

theorem witness_DecQuadUnitStep :
    (started .decode .quad [1, 2, 3]).running .decode .quad ∧ (started .decode .quad [1, 2, 3]).ucnt.toNat <
      unitCount .decode .quad (started .decode .quad [1, 2, 3]).nl.toNat := by decide

theorem witness_EncMonoUnitStep :
    (started .encode .mono [8, 8]).running .encode .mono ∧ (started .encode .mono [8, 8]).ucnt.toNat <
      unitCount .encode .mono (started .encode .mono [8, 8]).nl.toNat := by decide

theorem witness_EncStereoUnitStep :
    (started .encode .stereo [8, 8, 5]).running .encode .stereo ∧ (started .encode .stereo [8, 8, 5]).ucnt.toNat <
      unitCount .encode .stereo (started .encode .stereo [8, 8, 5]).nl.toNat := by decide

theorem witness_EncQuadUnitStep :
    (started .encode .quad [8, 8, 5, 4]).running .encode .quad ∧ (started .encode .quad [8, 8, 5, 4]).ucnt.toNat <
      unitCount .encode .quad (started .encode .quad [8, 8, 5, 4]).nl.toNat := by decide

theorem witness_CompletionStep :
    (started .decode .quad [1]).running .decode .quad ∧
    (started .decode .quad [1]).ucnt.toNat = unitCount .decode .quad (started .decode .quad [1]).nl.toNat := by decide

theorem witness_TooLongInputRefused :
    (idle [] 17).busy = false ∧ (idle [] 17).inLen.toNat > (idle [] 17).params.inCapacity := by decide

theorem witness_OtherCommandWhileBusyFaults :
    (started .decode .mono [1]).busy = true ∧ Instr.encQuad ≠ (started .decode .mono [1]).latchedInstr := by decide

theorem witness_CommandCompletesAfterItsUnits :
    (idle [1, 2] 2).startable ∧ 2 ≤ unitCount .decode .mono (idle [1, 2] 2).inLen.toNat := by decide

theorem witness_CommandStepsComputeRun :
    (idle [1, 2] 16).startable ∧ (idle [1, 2] 16).params.inCapacity ≤ 2147483647 := by decide

theorem witness_UnsupportedCommandComputesRun : (idle [1, 2] 16).startable ∧ legalChannels 3#8 = false := by decide

theorem witness_StatusAndLengthOfEachCommand :
    (idle [1, 2] 15).startable ∧ (idle [1, 2] 15).params.inCapacity ≤ 2147483647 := by decide

theorem witness_EmptyAndShortInputs :
    (idle [] 0).startable ∧ (idle [] 0).inLen.toNat = 0 ∧ (idle [1, 2, 3] 3).startable ∧
    0 < (idle [1, 2, 3] 3).inLen.toNat ∧ (idle [1, 2, 3] 3).inLen.toNat < inPerUnit .encode .quad := by decide

theorem witness_OutputWrittenExactly :
    (idle [1, 2] 2).startable ∧ (idle [1, 2] 2).params.inCapacity ≤ 2147483647 := by decide

/-- A slot, a register and an input unit beyond `IN_LEN` that differ. -/
def otherIdle : State :=
  { idle [0x74, 9] 1 with cmd := 0x401#32, slots := #v[⟨5#16, 3⟩, Slot.zero, Slot.zero, Slot.zero] }

/-- For DECODE, cells that differ in their unused half; for ENCODE, equal samples. -/
theorem witness_ResultDependsOnlyOnInput :
    (idle [0x1274] 1).startable ∧ otherIdle.startable ∧
    (idle [0x1274] 1).params.stepTable = otherIdle.params.stepTable ∧ (idle [0x1274] 1).inLen = otherIdle.inLen ∧
    (∀ i, i < 1 → (idle [0x1274] 1).readCode i = otherIdle.readCode i) ∧
    (∀ i, i < 1 → (idle [0x74] 1).readSample i = otherIdle.readSample i) ∧
    (∃ t, execTimes (.ofCommand .decode .mono) (1 + (1 + 1)) (idle [0x1274] 1) = .next t) ∧
    (∃ t, execTimes (.ofCommand .decode .mono) (1 + (1 + 1)) otherIdle = .next t) ∧
    (∃ t, execTimes (.ofCommand .encode .mono) (1 + (0 + 1)) (idle [0x74] 1) = .next t) ∧
    (∃ t, execTimes (.ofCommand .encode .mono) (1 + (0 + 1)) otherIdle = .next t) :=
  ⟨by decide, by decide, rfl, rfl, by decide, by decide, ⟨_, rfl⟩, ⟨_, rfl⟩, ⟨_, rfl⟩, ⟨_, rfl⟩⟩

/-- Two streams whose right nibbles differ (V1 W8). -/
theorem witness_DecodeChannelIndependence :
    (idle [0x74] 1).startable ∧ (idle [0xF4] 1).startable ∧ (0 : Fin 4).val < channelCount .stereo ∧
    (∀ g, g < 1 → codeAt .stereo (idle [0x74] 1).readCode 1 0 g = codeAt .stereo (idle [0xF4] 1).readCode 1 0 g) := by
  decide

theorem witness_EncodeChannelIndependence :
    (idle [1, 2, 3, 4] 4).startable ∧ (idle [9, 9, 9, 4] 4).startable ∧ (3 : Fin 4).val < channelCount .quad ∧
    (∀ g, g < 1 → sampleAt .quad (idle [1, 2, 3, 4] 4).readSample 3 g =
      sampleAt .quad (idle [9, 9, 9, 4] 4).readSample 3 g) := by decide

/-- V5: `ENC.STEREO` of [8, -8] writes 0xD5, which a decode then reads. -/
theorem witness_DecodeFollowsTheEncoder :
    (idle [8, -8] 2).startable ∧ (idle [0xD5] 1).startable ∧
    ∃ t, execTimes (.ofCommand .encode .stereo) (1 + (1 + 1)) (idle [8, -8] 2) = .next t ∧
      (idle [0xD5] 1).inLen = t.outLen ∧ ∀ j, j < 1 → (idle [0xD5] 1).readCode j = t.outByte (2 * j) :=
  ⟨by decide, by decide, _, rfl, by decide, by decide⟩

theorem smallParams_legal : ParamsLegal smallParams := ⟨defaultTable_legal, by decide⟩

/-- For DECODE, code bytes that are 0 in cells that are not. -/
theorem witness_SilenceStaysSilent :
    (idle [0x1200, 0] 2).startable ∧ ParamsLegal (idle [0x1200, 0] 2).params ∧
    (∀ i, i < 2 → (idle [0x1200, 0] 2).readCode i = 0#8) ∧ (idle [0, 0] 2).startable ∧
    (∀ i, i < 2 → (idle [0, 0] 2).readSample i = 0#16) :=
  ⟨by decide, smallParams_legal, by decide, by decide, by decide⟩

theorem witness_RegisterAccesses : (idle [] 0).busy = false ∧ (started .decode .mono []).busy = true ∧ 3 < 4 := by decide

theorem witness_ReservedRegistersRefused : 4 ≥ 4 := by decide

/-- A busy machine, the host at a given access. -/
def busyAt (op : HostOp) : State := withHost [op] (started .decode .mono [])

/-- A machine busy with an ENCODE, the host at a given access. -/
def encodingAt (op : HostOp) : State := withHost [op] (started .encode .mono [])

/-- Each clause at the last unit of the buffer. -/
theorem witness_ForbiddenAccessesWhileBusyFault :
    (busyAt .halt).busy = true ∧ (busyAt .halt).nextAgent = .host ∧
    (busyAt (.wreg 3 0)).hostOp = some (.wreg 3 0) ∧ (busyAt (.win 15 0)).hostOp = some (.win 15 0) ∧
    (busyAt (.rout 1 31)).hostOp = some (.rout 1 31) ∧
    (busyAt (.busWriteIn .code .w8 15 0)).hostOp = some (.busWriteIn .code .w8 15 0) ∧
    (busyAt (.busReadOut 1 .w16 62)).hostOp = some (.busReadOut 1 .w16 (2 * 31)) ∧ (busyAt .halt).opl = .decode ∧
    (encodingAt .halt).busy = true ∧ (encodingAt .halt).nextAgent = .host ∧ (encodingAt .halt).opl = .encode ∧
    (encodingAt (.busWriteIn .sample .w16 30 0)).hostOp = some (.busWriteIn .sample .w16 (2 * 15) 0) ∧
    (encodingAt (.busReadOut 1 .w8 31)).hostOp = some (.busReadOut 1 .w8 31) ∧
    15 < (busyAt .halt).params.inCapacity ∧ 31 < 2 * (encodingAt .halt).params.inCapacity := by decide

/-- A busy machine that meets the invariant. -/
theorem busyAt_inv (program : List HostOp) (op : Op) : Inv (withHost program (started op .mono [])) where
  paramsLegal := smallParams_legal
  inpCanonical := rfl
  outCanonical := rfl
  inpWithin := fun _ h => absurd rfl h
  outWithin := fun _ h => absurd rfl h
  statusLegal := by show legalStatus busyStatus = true; decide
  outLenWithin := Nat.zero_le _
  busyCommand := fun _ => ⟨Nat.zero_le _, Nat.zero_le _, rfl, rfl, rfl⟩
  handshake := fun _ => rfl

theorem witness_AllowedReadsWhileBusy :
    (∀ op, Inv (busyAt op)) ∧ (∀ op, Inv (encodingAt op)) ∧ (busyAt (.rin 1 .code 15)).busy = true ∧
    (busyAt (.rin 1 .code 15)).nextAgent = .host ∧
    (busyAt (.rin 1 .code 15)).hostOp = some (.rin 1 .code 15) ∧ 15 < (busyAt (.rin 1 .code 15)).params.inCapacity ∧
    (busyAt (.rreg 1 0)).hostOp = some (.rreg 1 0) ∧ (busyAt (.rreg 1 3)).hostOp = some (.rreg 1 3) ∧
    (busyAt (.busReadIn 1 .code .w8 15)).hostOp = some (.busReadIn 1 .code .w8 15) ∧ (busyAt .halt).opl = .decode ∧
    (encodingAt .halt).busy = true ∧ (encodingAt .halt).nextAgent = .host ∧ (encodingAt .halt).opl = .encode ∧
    (encodingAt (.busReadIn 1 .code .w16 30)).hostOp = some (.busReadIn 1 .code .w16 (2 * 15)) :=
  ⟨fun op => busyAt_inv [op] .decode, fun op => busyAt_inv [op] .encode, by decide⟩

/-- An idle machine for each clause, at the last unit of the buffer. -/
theorem witness_SampleByteOrder :
    (idle [] 0).busy = false ∧ (idle [] 0).opl = .decode ∧ (idle [] 0).host.awaitingDone = false ∧
    15 < (idle [] 0).params.inCapacity ∧ 31 < 2 * (idle [] 0).params.inCapacity ∧
    (completed .encode).busy = false ∧ (completed .encode).opl = .encode ∧
    ((completed .encode).noteRead 2).host.awaitingDone = false ∧ ((completed .encode).noteRead 2).busy = false := by decide

theorem witness_MisalignedAccessesRefused :
    (idle [] 0).busy = false ∧ (idle [] 0).opl = .decode ∧ 1 % 2 = 1 ∧
    (started .encode .mono []).busy = true ∧ (started .encode .mono []).opl = .encode ∧
    (started .decode .mono []).busy = true ∧ (started .decode .mono []).opl = .decode := by decide

/-- A host local with bit 1 set and another with it clear, and a program that holds its label. -/
def branching : State :=
  withHost (wait 1 7) ((idle [] 0).setHostLocal 1 0#32 |>.setHostLocal 2 2#32)

theorem witness_HostProgramOperations :
    branching.busy = false ∧ 15 < branching.params.inCapacity ∧ 31 < 2 * branching.params.inCapacity ∧
    (branching.hostLocal 1).getLsbD 1 = false ∧ (branching.hostLocal 2).getLsbD 1 = true ∧
    .label 7 ∈ branching.host.program ∧ branching.host.awaitingDone = false ∧
    (completed .decode).busy = false ∧ (completed .decode).host.awaitingDone = true := by decide

/-- A busy machine with the host in a `WAIT`. -/
def waiting : State := withHost (wait 1 7) (started .decode .mono [])

theorem witness_WaitLoopExits :
    Inv waiting ∧ waiting.busy = true ∧ waiting.host.program[0]? = some (.label 7) ∧
    waiting.host.program[0 + 1]? = some (.rreg 1 2) ∧ waiting.host.program[0 + 2]? = some (.brbit0 1 1 7) ∧
    findLabel waiting.host.program 7 = some 0 ∧ waiting.host.hpc = 0 :=
  ⟨busyAt_inv _ _, by decide⟩

/-- An idle machine with the host at a START. -/
def starting (w : Word) : State := withHost [.wreg 0 w] (idle [] 0)

theorem witness_StepRunsTheWrittenCommand :
    (starting 0x201#32).nextAgent = .host ∧ (starting 0x201#32).busy = false ∧
    (starting 0x201#32).hostOp = some (.wreg 0 0x201#32) ∧ decodeWord 0x201#32 = .instr .encStereo := by decide

theorem witness_StepRunsTheLatchedCommand :
    (started .encode .quad [1]).nextAgent = .core ∧ (started .encode .quad [1]).running .encode .quad ∧
    { idle [] 0 with schedule := [.core] }.nextAgent = .core ∧ { idle [] 0 with schedule := [.core] }.busy = false := by
  decide

theorem witness_ResetAtAnyTime :
    (busyAt .assertReset).nextAgent = .host ∧ (busyAt .assertReset).hostOp = some .assertReset := by decide

theorem witness_StepKeepsTheInvariant : Inv (busyAt (.rreg 1 2)) ∧ ∃ t, step (busyAt (.rreg 1 2)) = .next t :=
  ⟨busyAt_inv _ _, _, rfl⟩

theorem witness_StepKeepsTheParameters : ∃ t, step (starting 0x300#32) = .next t := ⟨_, rfl⟩

/-- One step for each clause: an error completion by a START, a reset, and a completion by the core. -/
theorem witness_OnlyStartCompletionOrResetChangesStatus :
    (∃ t, step (starting 0x300#32) = .next t ∧ t.status ≠ (starting 0x300#32).status) ∧
    (∃ t, step (busyAt .assertReset) = .next t ∧ t.status ≠ (busyAt .assertReset).status) ∧
    (∃ t, step (started .decode .mono []) = .next t ∧ t.status ≠ (started .decode .mono []).status) :=
  ⟨⟨_, rfl, by decide⟩, ⟨_, rfl, by decide⟩, ⟨_, rfl, by decide⟩⟩

/-- One step for each clause: a unit of the core, an accepted START after a command, and a reset. -/
theorem witness_OnlyTheCodecChangesPredictors :
    (∃ t, step (started .decode .mono [0x77]) = .next t ∧ t.slots ≠ (started .decode .mono [0x77]).slots) ∧
    (∃ t, step (withHost [.wreg 0 0x100#32] otherIdle) = .next t ∧ t.slots ≠ otherIdle.slots) ∧
    (∃ t, step (withHost [.assertReset] otherIdle) = .next t ∧ t.slots ≠ otherIdle.slots) :=
  ⟨⟨_, rfl, by decide⟩, ⟨_, rfl, by decide⟩, ⟨_, rfl, by decide⟩⟩

theorem witness_BufferDirections :
    (∃ t, step (started .decode .mono [0x77]) = .next t) ∧ (started .decode .mono [0x77]).nextAgent = .core ∧
    (∃ t, step (starting 0x100#32) = .next t) ∧ (starting 0x100#32).nextAgent = .host :=
  ⟨⟨_, rfl⟩, by decide, ⟨_, rfl⟩, by decide⟩

end Sys2Proof.Tests
end

section
/-! The invariant of every step (O55, O56): the buffers stay canonical and within their extents, and each effect of a step
that Laws/Step.lean lists keeps `Inv`. -/

namespace Sys2Proof.Machine

/-! ## A buffer within an extent -/

/-- What `Inv` asks of one buffer (R50): its canonical form, and no listed byte past the first `n` units. -/
structure Memory.Within (n : Nat) (m : Memory) : Prop where
  canonical : m.wf = true
  bounded : ∀ a, lookupAt m a ≠ none → a < 2 * n

theorem Memory.within_nil (n : Nat) : Memory.Within n [] :=
  ⟨Memory.wf_nil, fun a h => absurd (lookupAt_nil a) h⟩

theorem Memory.Within.insertAt {n a : Nat} {m : Memory} (v : Byte) (h : m.Within n) (ha : a < 2 * n) :
    Memory.Within n (insertAt m a v) :=
  ⟨Memory.wf_insertAt a v h.canonical, lookupAt_insertAt_bound h.bounded ha⟩

/-- Writing both bytes of a cell below the extent, as `writeSample` and `writeInCell` do. -/
theorem Memory.Within.insertCell {n j : Nat} {m : Memory} (low high : Byte) (h : m.Within n) (hj : j < n) :
    Memory.Within n (Machine.insertAt (Machine.insertAt m (2 * j) low) (2 * j + 1) high) :=
  (h.insertAt low (by omega)).insertAt high (by omega)

theorem within_writeSample {n j : Nat} {s : State} (v : Sample) (h : s.out.Within n) (hj : j < n) :
    (s.writeSample j v).out.Within n :=
  h.insertCell _ _ hj

theorem within_writeCode {n j : Nat} {s : State} (b : Byte) (h : s.out.Within n) (hj : j < n) :
    (s.writeCode j b).out.Within n :=
  h.insertAt b (by omega)

/-! ## A unit stores within the output of its command -/

/-- The (L, R) byte of a group lies among the `2U` bytes of its quad stream (R147). -/
theorem lrIndex_lt {op : Op} {n g : Nat} (hg : g < unitCount op .quad n) :
    lrIndex g < 2 * unitCount op .quad n := by
  obtain ⟨hU, ht⟩ := unitCount_quad op n
  unfold lrIndex
  omega

/-- The (C, LFE) byte of a group lies among the `2U` bytes of its quad stream (R147). -/
theorem clIndex_lt {op : Op} {n g : Nat} (hg : g < unitCount op .quad n) :
    clIndex op n g < 2 * unitCount op .quad n := by
  obtain ⟨hU, ht⟩ := unitCount_quad op n
  unfold clIndex
  rcases halfLength_cases op n (g / 8192) with ⟨hβ, hh⟩ | ⟨hβ, hh⟩ <;> omega

/-- `unitOf_frame` as one equation: a unit changes the slots and `OUT` alone. -/
theorem unitOf_eq (op : Op) (l : Layout) (s : State) (u : Nat) :
    unitOf op l s u = { s with slots := (unitOf op l s u).slots, out := (unitOf op l s u).out } := by
  have frame := unitOf_frame op l s u
  generalize unitOf op l s u = t at frame ⊢
  cases t
  simp_all

/-- A unit below `U` keeps `OUT` within any extent that holds the whole output of the command (R52, R143). -/
theorem within_unitOf {op : Op} {l : Layout} {s : State} {u n : Nat} (hu : u < unitCount op l s.nl.toNat)
    (hn : outLength op l s.nl.toNat ≤ n) (h : s.out.Within n) : (unitOf op l s u).out.Within n := by
  unfold outLength at hn
  cases op <;> cases l <;> simp only [outPerUnit] at hn
  case decode.mono =>
    exact within_writeSample _ (within_writeSample _ h (by omega)) (by omega)
  case decode.stereo =>
    exact within_writeSample _ (within_writeSample _ h (by omega)) (by omega)
  case decode.quad =>
    exact within_writeSample _ (within_writeSample _ (within_writeSample _ (within_writeSample _ h
      (by omega)) (by omega)) (by omega)) (by omega)
  case encode.mono => exact within_writeCode _ h (by omega)
  case encode.stereo => exact within_writeCode _ h (by omega)
  case encode.quad =>
    have hlr := lrIndex_lt hu
    have hcl := clIndex_lt hu
    exact within_writeCode _ (within_writeCode _ h (by omega)) (by omega)

/-! ## The invariant by its parts -/

theorem Inv.inpFits {s : State} (h : Inv s) : s.inp.Within s.inExtent := ⟨h.inpCanonical, h.inpWithin⟩

theorem Inv.outFits {s : State} (h : Inv s) : s.out.Within s.outExtent := ⟨h.outCanonical, h.outWithin⟩

/-- An idle state owes nothing to a command or to the handshake. -/
theorem Inv.of_idle {s : State} (idle : s.busy = false) (params : ParamsLegal s.params)
    (inp : s.inp.Within s.inExtent) (out : s.out.Within s.outExtent) (status : legalStatus s.status = true)
    (outLen : s.outLen.toNat ≤ s.outExtent) : Inv s where
  paramsLegal := params
  inpCanonical := inp.canonical
  outCanonical := out.canonical
  inpWithin := inp.bounded
  outWithin := out.bounded
  statusLegal := status
  outLenWithin := outLen
  busyCommand hb := by simp [idle] at hb
  handshake hb := by simp [idle] at hb

/-- The host's program counter and locals and the schedule are not in the invariant; a handshake that stays open while the
core is busy is all it asks of the agents. -/
theorem Inv.withAgents {s : State} (hi : Inv s) (h : HostState) (sched : List Agent)
    (stillOpen : s.busy = true → h.awaitingDone = true) : Inv { s with host := h, schedule := sched } :=
  { hi with handshake := stillOpen }

theorem Inv.takeTurn {s : State} (hi : Inv s) : Inv s.takeTurn :=
  hi.withAgents s.host s.schedule.tail hi.handshake

/-- No listed `STATUS` word has both `BUSY` and `DONE` set (R205). -/
theorem legalStatus_not_busy_done {w : Word} (h : legalStatus w = true) :
    w.getLsbD 0 = true → w.getLsbD 1 = false := by
  simp only [legalStatus, Bool.or_eq_true, beq_iff_eq] at h
  rcases h with (((rfl | rfl) | rfl) | rfl) | rfl <;> decide

theorem Inv.not_done_of_busy {s : State} (hi : Inv s) (hb : s.busy = true) : s.done = false :=
  legalStatus_not_busy_done hi.statusLegal hb

theorem legalStatus_zero : legalStatus 0#32 = true := by decide
theorem legalStatus_busyStatus : legalStatus busyStatus = true := by decide
theorem legalStatus_unsupportedStatus : legalStatus unsupportedStatus = true := by decide

/-! ## The effects of a step -/

/-- The accepted START: `UCNT = 0`, `NL` is the checked `IN_LEN`, and `CMD` is the word of the latched command (R183). -/
theorem Inv.accept {s : State} (hi : Inv s) (op : Op) (l : Layout) (fits : s.inLen.toNat ≤ s.params.inCapacity) :
    Inv (s.openHandshake.accept op l) where
  paramsLegal := hi.paramsLegal
  inpCanonical := hi.inpCanonical
  outCanonical := (Memory.within_nil s.outExtent).canonical
  inpWithin := hi.inpWithin
  outWithin := (Memory.within_nil s.outExtent).bounded
  statusLegal := legalStatus_busyStatus
  outLenWithin := Nat.zero_le _
  busyCommand _ := ⟨fits, Nat.zero_le _, rfl, rfl, rfl⟩
  handshake _ := rfl

theorem Inv.raiseUnsupportedLayout {s : State} (hi : Inv s) (op : Op) (c : BitVec 8) :
    Inv (s.raiseUnsupportedLayout op c) :=
  .of_idle (busy_raiseUnsupportedLayout s op c) hi.paramsLegal hi.inpFits hi.outFits
    legalStatus_unsupportedStatus (Nat.zero_le _)

/-- A reset needs only legal parameters: it may come while a command runs, with the handshake closed (R230, R231). -/
theorem inv_resetCore {s : State} (params : ParamsLegal s.params) : Inv s.resetCore :=
  .of_idle (busy_resetCore s) params (Memory.within_nil _) (Memory.within_nil _) legalStatus_zero (Nat.zero_le _)

/-- A unit step counts towards `U`, stores within `OUT` and touches nothing else the invariant speaks of (R160). -/
theorem Inv.unitStep {s : State} (hi : Inv s) (hb : s.busy = true)
    (more : s.ucnt.toNat < unitCount s.opl s.chl s.nl.toNat) :
    Inv (unitOf s.opl s.chl s s.ucnt.toNat).advanceUnit := by
  obtain ⟨fits, _, noOutput, latched, word⟩ := hi.busyCommand hb
  have hout : (unitOf s.opl s.chl s s.ucnt.toNat).out.Within s.outExtent :=
    within_unitOf more ((outLength_le _ _ _).trans (Nat.mul_le_mul_left 2 fits)) hi.outFits
  rw [unitOf_eq]
  exact { hi with
    outCanonical := hout.canonical
    outWithin := hout.bounded
    busyCommand := fun _ => ⟨fits, (ucnt_succ more).trans_le more, noOutput, latched, word⟩ }

/-- The completion: `OUT_LEN` is the output length, which fits `OUT` (R143, R184). -/
theorem Inv.complete {s : State} (hi : Inv s) (hb : s.busy = true) : Inv (s.complete s.opl s.chl) := by
  obtain ⟨fits, _⟩ := hi.busyCommand hb
  refine .of_idle (busy_complete s _ _) hi.paramsLegal hi.inpFits hi.outFits (legalStatus_doneStatus _) ?_
  calc (s.complete s.opl s.chl).outLen.toNat
      ≤ outLength s.opl s.chl s.nl.toNat := by simpa using Nat.mod_le _ _
    _ ≤ 2 * s.nl.toNat := outLength_le _ _ _
    _ ≤ s.outExtent := Nat.mul_le_mul_left 2 fits

theorem CoreEffect.inv {s t : State} (h : CoreEffect s t) (hi : Inv s) : Inv t := by
  cases h with
  | idle => exact hi
  | unit isBusy more => exact hi.unitStep isBusy more
  | complete isBusy => exact hi.complete isBusy

/-- A busy core leaves a host operation only reads and a reset; a read closes the handshake only at `DONE = 1`, which a busy
core does not show (R242; log 22). -/
theorem HostEffect.inv {s t : State} {op : HostOp} (h : HostEffect s op t) (hi : Inv s) : Inv t := by
  have hadv : Inv s.advanceHost := hi.withAgents _ s.schedule hi.handshake
  cases h with
  | hostOnly h handshake =>
    refine hi.withAgents h s.schedule fun hb => ?_
    rcases handshake with same | done
    · exact same.trans (hi.handshake hb)
    · simp [hi.not_done_of_busy hb] at done
  | writeInLen v idle =>
    exact .of_idle idle hi.paramsLegal hi.inpFits hi.outFits hi.statusLegal hi.outLenWithin
  | writeInCell i v idle within =>
    exact .of_idle idle hi.paramsLegal (hi.inpFits.insertCell _ _ within) hi.outFits hi.statusLegal hi.outLenWithin
  | writeInByte i b idle within =>
    exact .of_idle idle hi.paramsLegal (hi.inpFits.insertAt b (Nat.mul_lt_mul_of_pos_left within (by decide)))
      hi.outFits hi.statusLegal hi.outLenWithin
  | accept w o l _ _ fits => exact hadv.accept o l fits
  | unsupported w o c _ _ =>
    exact (hadv.withAgents _ _ fun _ => rfl : Inv s.advanceHost.openHandshake).raiseUnsupportedLayout o c
  | reset => exact inv_resetCore hi.paramsLegal

/-! ## The obligations -/

theorem paramsLegal_config : ParamsLegal Config.params := by
  have hcap := Config.inCapacityLessOne.isLt
  have heq : Config.params.inCapacity = Config.inCapacityLessOne.val + 1 := rfl
  exact ⟨by decide, by omega, by omega⟩

/-- Settles O55: an idle state with empty buffers, `STATUS` 0 and the legal parameters of the configuration. -/
theorem invariantAtReset : Obligations.InvariantAtReset :=
  .of_idle (by decide) paramsLegal_config (Memory.within_nil _) (Memory.within_nil _) legalStatus_zero (Nat.zero_le _)

/-- Settles O56, by the effects a step can have. -/
theorem stepKeepsTheInvariant : Obligations.StepKeepsTheInvariant := by
  intro s t hi h
  rcases step_next h with ⟨_, he⟩ | ⟨_, op, _, he⟩ | ⟨_, _, rfl⟩
  · exact he.inv hi.takeTurn
  · exact he.inv hi.takeTurn
  · exact hi.takeTurn

end Sys2Proof.Machine
end

section
/-! What a step does to one part of the machine (O57, O58, O59, O20, O42, O43, O53, O54): the parameters, `STATUS` and the
predictor slots by the effects of Laws/Step.lean; the accepted START, the register accesses and the reset as equations. -/

namespace Sys2Proof.Machine

/-! ## `DONE` after the shared steps -/

@[simp] theorem done_complete (s : State) (op : Op) (l : Layout) : (s.complete op l).done = true := by
  simp only [State.done, State.status_complete]
  cases truncated op l s.nl.toNat <;> decide

@[simp] theorem done_resetCore (s : State) : s.resetCore.done = false := by
  simp only [State.done, State.status_resetCore]; decide

/-! ## The parameters (R26) -/

theorem CoreEffect.params_eq {s t : State} (h : CoreEffect s t) : t.params = s.params := by
  cases h with
  | idle => rfl
  | unit => exact (unitOf_frame _ _ _ _).1
  | complete => rfl

theorem HostEffect.params_eq {s t : State} {op : HostOp} (h : HostEffect s op t) : t.params = s.params := by
  cases h <;> rfl

/-- Settles O57, by the effects a step can have. -/
theorem stepKeepsTheParameters : Obligations.StepKeepsTheParameters := by
  intro s t h
  rcases step_next h with ⟨_, he⟩ | ⟨_, op, _, he⟩ | ⟨_, _, rfl⟩
  · exact he.params_eq
  · exact he.params_eq
  · rfl

/-! ## `STATUS` (R208) -/

/-- The core's turn changes `STATUS` only by the completion (R184). -/
theorem CoreEffect.status_changes {s t : State} (h : CoreEffect s t) (changed : t.status ≠ s.status) :
    s.busy = true ∧ t.busy = false ∧ t.done = true := by
  cases h with
  | idle => exact absurd rfl changed
  | unit =>
    obtain ⟨_, _, _, status, _⟩ := unitOf_frame s.opl s.chl s s.ucnt.toNat
    exact absurd status changed
  | complete isBusy => exact ⟨isBusy, busy_complete s _ _, done_complete s _ _⟩

/-- A host operation changes `STATUS` only by a START at an idle core or by the reset (R183, R182, R230). -/
theorem HostEffect.status_changes {s t : State} {op : HostOp} (h : HostEffect s op t) (changed : t.status ≠ s.status) :
    (s.busy = false ∧ ∃ w, op = .wreg 0 w) ∨ (op = .assertReset ∧ t.status = 0#32) := by
  cases h with
  | accept w _ _ isStart idle => exact .inl ⟨idle, w, isStart⟩
  | unsupported w _ _ isStart idle => exact .inl ⟨idle, w, isStart⟩
  | reset isReset => exact .inr ⟨isReset, rfl⟩
  | hostOnly | writeInLen | writeInCell | writeInByte => exact absurd rfl changed

/-- Settles O58, by the effects a step can have. -/
theorem onlyStartCompletionOrResetChangesStatus : Obligations.OnlyStartCompletionOrResetChangesStatus := by
  intro s t h changed
  rcases step_next h with ⟨ha, he⟩ | ⟨ha, op, hop, he⟩ | ⟨_, _, rfl⟩
  · exact .inr (.inr ⟨ha, he.status_changes changed⟩)
  · rcases he.status_changes changed with ⟨idle, w, rfl⟩ | ⟨rfl, cleared⟩
    · exact .inl ⟨ha, idle, w, hop⟩
    · exact .inr (.inl ⟨ha, hop, cleared⟩)
  · exact absurd rfl changed

/-! ## The predictor slots (R24, R25) -/

/-- The core's turn changes a slot only by a unit, after which it still runs (R160). -/
theorem CoreEffect.slots_change {s t : State} (h : CoreEffect s t) (changed : t.slots ≠ s.slots) :
    s.busy = true ∧ t.busy = true := by
  cases h with
  | unit isBusy =>
    obtain ⟨_, _, _, status, _⟩ := unitOf_frame s.opl s.chl s s.ucnt.toNat
    refine ⟨isBusy, ?_⟩
    rw [busy_advanceUnit, State.busy, status]
    exact isBusy
  | idle | complete => exact absurd rfl changed

/-- A host operation changes a slot only by an accepted START or by the reset (R25, R230). -/
theorem HostEffect.slots_change {s t : State} {op : HostOp} (h : HostEffect s op t) (changed : t.slots ≠ s.slots) :
    (s.busy = false ∧ (∃ w, op = .wreg 0 w) ∧ t.busy = true ∧ ∀ c, t.slot c = Slot.zero) ∨ op = .assertReset := by
  cases h with
  | accept w o l isStart idle => exact .inl ⟨idle, ⟨w, isStart⟩, busy_accept _ o l, slot_accept _ o l⟩
  | reset isReset => exact .inr isReset
  | hostOnly | writeInLen | writeInCell | writeInByte | unsupported => exact absurd rfl changed

/-- Settles O59, by the effects a step can have. -/
theorem onlyTheCodecChangesPredictors : Obligations.OnlyTheCodecChangesPredictors := by
  intro s t h changed
  rcases step_next h with ⟨ha, he⟩ | ⟨ha, op, hop, he⟩ | ⟨_, _, rfl⟩
  · exact .inl ⟨ha, he.slots_change changed⟩
  · rcases he.slots_change changed with ⟨idle, ⟨w, rfl⟩, running, zero⟩ | rfl
    · exact .inr (.inl ⟨ha, idle, ⟨w, hop⟩, running, zero⟩)
    · exact .inr (.inr ⟨ha, hop⟩)
  · exact absurd rfl changed

/-! ## The accepted START (R183) -/

theorem channels_toNat (l : Layout) : l.channels.toNat = channelCount l := by
  cases l <;> rfl

/-- The word of a command as the number R90 makes of its two fields. -/
theorem commandWord_eq_ofNat (op : Op) (c : BitVec 8) :
    commandWord op c = BitVec.ofNat 32 (c.toNat * 256 + (if op = .encode then 1 else 0)) := by
  rw [← commandWord_toNat, BitVec.ofNat_toNat, BitVec.setWidth_eq]

theorem busyStatus_eq : busyStatus = 0x00000001#32 := by decide

/-- Settles O20: the START of a startable state is `State.accept`, with its word and `STATUS` as numbers. -/
theorem acceptedStart : Obligations.AcceptedStart := by
  intro op l s h
  rw [exec_startable op l h, ← channels_toNat, ← commandWord_eq_ofNat, ← encode_ofCommand, ← busyStatus_eq]
  rfl

/-! ## The register accesses (R29, R53, R58, R96) -/

/-- The four registers by number (R53). -/
theorem readReg_of_lt (s : State) {r : Nat} (h : r < 4) :
    s.readReg r =
      some (if r = 0 then s.cmd else if r = 1 then s.inLen else if r = 2 then s.status else s.outLen) := by
  interval_cases r <;> rfl

theorem readReg_of_ge (s : State) {r : Nat} (h : r ≥ 4) : s.readReg r = none := by
  obtain ⟨k, rfl⟩ := Nat.exists_eq_add_of_le' h
  rfl

/-- A read of a register that exists goes on with its value in the local. -/
theorem hostReadReg_of_readReg {s : State} {x r : Nat} {v : Word} (h : s.readReg r = some v) :
    hostReadReg x r s = .next ((s.noteRead r).setHostLocal x v) := by
  simp only [hostReadReg, h]

theorem hostLocal_setHostLocal (s : State) (x y : Nat) (v : Word) :
    (s.setHostLocal x v).hostLocal y = if y = x then v else s.hostLocal y := by
  simp only [State.hostLocal, State.host_setHostLocal, lookupAt_insertAt]
  split <;> rfl

@[simp] theorem hostLocal_noteRead (s : State) (r y : Nat) : (s.noteRead r).hostLocal y = s.hostLocal y := rfl

/-- A write of a register that exists, while the core runs (R242 item 1). -/
theorem hostWriteReg_busy {s : State} {r : Nat} (v : Word) (hr : r < 4) (hb : s.busy = true) :
    hostWriteReg r v s = .fault (.hostProtocolViolation (.writeRegWhileBusy r)) := by
  simp [hostWriteReg, hr, hb]

/-- A write of a register that exists, at an idle core: a START, a new `IN_LEN`, or nothing (R29). -/
theorem hostWriteReg_idle {s : State} {r : Nat} (v : Word) (hr : r < 4) (hb : s.busy = false) :
    hostWriteReg r v s =
      if r = 0 then startCommand v s.openHandshake else if r = 1 then .next { s with inLen := v } else .next s := by
  simp [hostWriteReg, hr, hb]

/-- Settles O42, by the equations of a register write and of a register read. -/
theorem registerAccesses : Obligations.RegisterAccesses := by
  intro s v x
  refine ⟨fun idle => ?_, fun r hr busy => hostWriteReg_busy v hr busy, fun r hr => ?_⟩
  · have write := fun r hr => hostWriteReg_idle (r := r) v hr idle
    exact ⟨write 1 (by decide), write 2 (by decide), write 3 (by decide), write 0 (by decide)⟩
  · refine ⟨_, hostReadReg_of_readReg (readReg_of_lt s hr), ?_, fun y hy => ?_, rfl⟩
    · simp [hostLocal_setHostLocal]
    · simp [hostLocal_setHostLocal, hy]

/-- Settles O43: the register number is checked before anything else. -/
theorem reservedRegistersRefused : Obligations.ReservedRegistersRefused := by
  intro s r x v h
  constructor
  · exact if_pos h
  · simp only [hostReadReg, readReg_of_ge s h]

/-! ## The reset, and a turn with nothing to do (R216, R230) -/

theorem coreTurn_of_idle {s : State} (h : s.busy = false) : coreTurn s = .next s := by
  simp [coreTurn, h]

/-- The step of a machine whose host has the turn and is at an operation. -/
theorem step_of_hostOp {s : State} {op : HostOp} (ha : s.nextAgent = .host) (hop : s.hostOp = some op) :
    step s = hostStep op s.takeTurn := by
  have hop' : s.takeTurn.hostOp = some op := hop
  simp only [step, turn, ha, hostTurn, hop']

/-- The step of a machine whose host has the turn and no operation left. -/
theorem step_of_hostOp_none {s : State} (ha : s.nextAgent = .host) (hop : s.hostOp = none) :
    step s = .next s.takeTurn := by
  have hop' : s.takeTurn.hostOp = none := hop
  simp only [step, turn, ha, hostTurn, hop']

/-- Settles O53: the reset state is idle, and its host, which has the turn, has no program. -/
theorem resetValues : Obligations.ResetValues := by
  have idle : State.reset.busy = false := by decide
  have hostNext : State.reset.nextAgent = .host := by decide
  exact ⟨rfl, rfl, rfl, rfl, idle, by decide, coreTurn_of_idle idle, step_of_hostOp_none hostNext rfl⟩

/-- Settles O54: the step is the core's reset, whatever the state. -/
theorem resetAtAnyTime : Obligations.ResetAtAnyTime := by
  intro s ha hop
  refine ⟨s.takeTurn.advanceHost.closeHandshake.resetCore, step_of_hostOp ha hop, rfl, rfl, rfl, rfl,
    busy_resetCore _, done_resetCore _, lookupAt_nil, lookupAt_nil, ?_, ?_, ?_⟩
    <;> simp

end Sys2Proof.Machine
end

section
/-! The host's accesses to the buffers (O44 to O48, O60): what each of them does at an idle core, what it does while a command
runs, and which bus accesses reach no unit. -/

namespace Sys2Proof.Machine

/-! ## The type of a unit of `IN`, and the unit a bus access reaches (R50, R55, R56) -/

theorem inUnitType_of_busy {s : State} (ty : UnitType) (h : s.busy = true) : s.inUnitType ty = inType s.opl := by
  simp [State.inUnitType, h]

theorem inUnitType_of_idle {s : State} (ty : UnitType) (h : s.busy = false) : s.inUnitType ty = ty := by
  simp [State.inUnitType, h]

@[simp] theorem busUnit_code_w8 (i : Nat) : busUnit .code .w8 i = some i := rfl

@[simp] theorem busUnit_sample_w16 (k : Nat) : busUnit .sample .w16 (2 * k) = some k := by
  simp [busUnit]

/-- A 16-bit access at an odd byte offset reaches no unit, whatever the units are. -/
theorem busUnit_odd (ty : UnitType) {off : Nat} (h : off % 2 = 1) : busUnit ty .w16 off = none := by
  cases ty with
  | code => rfl
  | sample => simp [busUnit, h]

theorem busUnit_code_w16 (off : Nat) : busUnit .code .w16 off = none := rfl

theorem busUnit_sample_w8 (off : Nat) : busUnit .sample .w8 off = none := rfl

/-! ## The accesses by unit -/

theorem hostWriteIn_busy {s : State} {i : Nat} (write : State → State) (hi : i < s.params.inCapacity)
    (hb : s.busy = true) : hostWriteIn i write s = .fault (.hostProtocolViolation (.writeInWhileBusy i)) := by
  simp [hostWriteIn, State.inExtent, Nat.not_le.2 hi, hb]

theorem hostWriteIn_idle {s : State} {i : Nat} (write : State → State) (hi : i < s.params.inCapacity)
    (hb : s.busy = false) : hostWriteIn i write s = .next (write s) := by
  simp [hostWriteIn, State.inExtent, Nat.not_le.2 hi, hb]

/-- A read of `IN` is allowed at any time (R241). -/
theorem hostReadIn_within {s : State} {i : Nat} (x : Nat) (ty : UnitType) (hi : i < s.params.inCapacity) :
    hostReadIn x ty i s = .next (s.setHostLocal x (unitWord (s.inUnitType ty) (s.inCell i))) := by
  simp [hostReadIn, State.inExtent, Nat.not_le.2 hi]

theorem hostReadOut_busy {s : State} {j : Nat} (x : Nat) (hj : j < 2 * s.params.inCapacity) (hb : s.busy = true) :
    hostReadOut x j s = .fault (.hostProtocolViolation (.readOutWhileBusy j)) := by
  simp [hostReadOut, State.outExtent, Nat.not_le.2 hj, hb]

/-- A read of `OUT` after the handshake (R62). -/
theorem hostReadOut_done {s : State} {j : Nat} (x : Nat) (hj : j < 2 * s.params.inCapacity) (hb : s.busy = false)
    (hd : s.host.awaitingDone = false) :
    hostReadOut x j s = .next (s.setHostLocal x (unitWord (outType s.opl) (s.outCell j))) := by
  simp [hostReadOut, State.outExtent, Nat.not_le.2 hj, hb, hd]

/-- A read of `OUT` before the host has read `DONE = 1` (R62; log 22). -/
theorem hostReadOut_awaiting {s : State} {j : Nat} (x : Nat) (hj : j < 2 * s.params.inCapacity) (hb : s.busy = false)
    (hd : s.host.awaitingDone = true) :
    hostReadOut x j s =
      .next (s.countDraw.setHostLocal x (unitWord (outType s.opl) (Config.undefinedRead s.host.draws))) := by
  simp [hostReadOut, State.outExtent, Nat.not_le.2 hj, hb, hd]

/-! ## The accesses over the byte bus -/

section
variable {s : State} {ty : UnitType} {w : BusWidth} {off : Nat}

theorem hostBusWriteIn_misaligned (v : BitVec 16) (h : busUnit (s.inUnitType ty) w off = none) :
    hostBusWriteIn ty w off v s = .refused (.misalignedHostAccess off) := by
  simp only [hostBusWriteIn, h]

theorem hostBusReadIn_misaligned (x : Nat) (h : busUnit (s.inUnitType ty) w off = none) :
    hostBusReadIn x ty w off s = .refused (.misalignedHostAccess off) := by
  simp only [hostBusReadIn, h]

theorem hostBusReadOut_misaligned (x : Nat) (h : busUnit (outType s.opl) w off = none) :
    hostBusReadOut x w off s = .refused (.misalignedHostAccess off) := by
  simp only [hostBusReadOut, h]

theorem hostBusWriteIn_code (i : Nat) (v : BitVec 16) (h : s.inUnitType ty = .code) :
    hostBusWriteIn ty .w8 i v s = hostWriteIn i (fun s => s.writeInByte i (v.extractLsb' 0 8)) s := by
  simp only [hostBusWriteIn, h, busUnit_code_w8]

theorem hostBusWriteIn_sample (k : Nat) (v : BitVec 16) (h : s.inUnitType ty = .sample) :
    hostBusWriteIn ty .w16 (2 * k) v s = hostWriteIn k (fun s => s.writeInCell k v) s := by
  simp only [hostBusWriteIn, h, busUnit_sample_w16]

/-- A bus read of `IN` is the read of the unit it reaches. -/
theorem hostBusReadIn_unit {i : Nat} (x : Nat) (h : busUnit (s.inUnitType ty) w off = some i) :
    hostBusReadIn x ty w off s = hostReadIn x ty i s := by
  simp only [hostBusReadIn, h]

/-- A bus read of `OUT` is the read of the unit it reaches. -/
theorem hostBusReadOut_unit {j : Nat} (x : Nat) (h : busUnit (outType s.opl) w off = some j) :
    hostBusReadOut x w off s = hostReadOut x j s := by
  simp only [hostBusReadOut, h]

end

/-! ## A unit in a host local (log 14) -/

theorem toInt_unitWord_sample (cell : BitVec 16) : (unitWord .sample cell).toInt = cell.toInt := by
  simp [unitWord, BitVec.toInt_signExtend_of_le]

theorem toNat_unitWord_code (cell : BitVec 16) : (unitWord .code cell).toNat = (cell.extractLsb' 0 8).toNat := by
  simp only [unitWord, BitVec.toNat_setWidth]
  omega

theorem outByte_eq_outCell (s : State) (j : Nat) : s.outByte (2 * j) = (s.outCell j).extractLsb' 0 8 :=
  (BitVec.extractLsb'_append_eq_right (a := s.outByte (2 * j + 1))).symm

@[simp] theorem hostLocal_setHostLocal_self (s : State) (x : Nat) (v : Word) : (s.setHostLocal x v).hostLocal x = v := by
  simp [hostLocal_setHostLocal]

theorem hostLocal_setHostLocal_ne (s : State) {x y : Nat} (v : Word) (h : y ≠ x) :
    (s.setHostLocal x v).hostLocal y = s.hostLocal y := by
  simp [hostLocal_setHostLocal, h]

/-! ## The forbidden accesses (R242) -/

/-- Settles O44: the step is the host's operation, and each of the seven is an access of R242. -/
theorem forbiddenAccessesWhileBusyFault : Obligations.ForbiddenAccessesWhileBusyFault := by
  intro s hb ha
  have busy : s.takeTurn.advanceHost.busy = true := by simpa using hb
  have inUnit := fun ty => inUnitType_of_busy (s := s.takeTurn.advanceHost) ty busy
  refine ⟨fun r v hop hr => ?_, fun i v hop hi => ?_, fun x j hop hj => ?_, fun ty i v hopl hop hi => ?_,
    fun ty i v hopl hop hi => ?_, fun x j hopl hop hj => ?_, fun x j hopl hop hj => ?_⟩
    <;> rw [step_of_hostOp ha hop, hostStep]
  · exact hostWriteReg_busy v hr busy
  · exact hostWriteIn_busy _ hi busy
  · exact hostReadOut_busy x hj busy
  · exact (hostBusWriteIn_code i v ((inUnit ty).trans (congrArg inType hopl))).trans (hostWriteIn_busy _ hi busy)
  · exact (hostBusWriteIn_sample i v ((inUnit ty).trans (congrArg inType hopl))).trans (hostWriteIn_busy _ hi busy)
  · exact (hostBusReadOut_unit x (by simp [hopl, outType])).trans (hostReadOut_busy x hj busy)
  · exact (hostBusReadOut_unit x (by simp [hopl, outType])).trans (hostReadOut_busy x hj busy)

/-! ## The allowed reads (R241) -/

/-- A busy core's `STATUS` is the one word R205 lists with `BUSY` set. -/
theorem legalStatus_busy {w : Word} (h : legalStatus w = true) (hb : w.getLsbD 0 = true) : w = 0x00000001#32 := by
  simp only [legalStatus, Bool.or_eq_true, beq_iff_eq] at h
  rcases h with (((rfl | rfl) | rfl) | rfl) | rfl <;> revert hb <;> decide

/-- A register read closes the handshake only where the core shows `DONE` (log 22). -/
theorem noteRead_of_not_done {s : State} (r : Nat) (h : s.done = false) : s.noteRead r = s := by
  simp [State.noteRead, h]

/-- A register read while a command runs leaves the handshake open, as the core does not show `DONE` (log 22). -/
theorem step_rreg_busy {s : State} {x r : Nat} {v : Word} (hi : Inv s) (hb : s.busy = true) (ha : s.nextAgent = .host)
    (hop : s.hostOp = some (.rreg x r)) (hr : s.readReg r = some v) :
    step s = .next (s.takeTurn.advanceHost.setHostLocal x v) := by
  have notDone : s.takeTurn.advanceHost.done = false := hi.not_done_of_busy hb
  have hr' : s.takeTurn.advanceHost.readReg r = some v := hr
  rw [step_of_hostOp ha hop, hostStep, hostReadReg_of_readReg hr', noteRead_of_not_done r notDone]

/-- A read of `IN` while a command runs has the type of the command's units (R50). -/
theorem hostReadIn_busy {s : State} {i : Nat} (x : Nat) (ty : UnitType) (hi : i < s.params.inCapacity)
    (hb : s.busy = true) : hostReadIn x ty i s = .next (s.setHostLocal x (unitWord (inType s.opl) (s.inCell i))) := by
  rw [hostReadIn_within x ty hi, inUnitType_of_busy ty hb]

/-- Settles O45: each read is a step to the state with its value in the local. -/
theorem allowedReadsWhileBusy : Obligations.AllowedReadsWhileBusy := by
  intro s hinv hb ha x read v hop allowed
  obtain ⟨_, _, noOutput, latched, word⟩ := hinv.busyCommand hb
  suffices reads : step s = .next (s.takeTurn.advanceHost.setHostLocal x v) from
    ⟨_, reads, hostLocal_setHostLocal_self _ x v, fun y hy => hostLocal_setHostLocal_ne _ v hy, rfl⟩
  rcases allowed with ⟨rfl, rfl⟩ | ⟨rfl, rfl⟩ | ⟨rfl, rfl⟩ | ⟨rfl, rfl⟩ |
    ⟨i, hi, rfl, ty, rfl | ⟨rfl, hopl⟩ | ⟨rfl, hopl⟩⟩
  · exact step_rreg_busy hinv hb ha hop (congrArg some (legalStatus_busy hinv.statusLegal hb))
  · exact step_rreg_busy hinv hb ha hop (congrArg some noOutput)
  · exact step_rreg_busy hinv hb ha hop (congrArg some latched)
  · exact step_rreg_busy hinv hb ha hop (congrArg some word)
  all_goals
    rw [step_of_hostOp ha hop]
    have busy : s.takeTurn.advanceHost.busy = true := by simpa using hb
    have readIn := hostReadIn_busy (s := s.takeTurn.advanceHost) x ty hi busy
    have unitType := inUnitType_of_busy (s := s.takeTurn.advanceHost) ty busy
  · exact readIn
  · exact (hostBusReadIn_unit x (by simp [unitType, hopl, inType])).trans readIn
  · exact (hostBusReadIn_unit x (by simp [unitType, hopl, inType])).trans readIn

/-! ## The byte bus at an idle core (R55) -/

/-- A byte of `IN` after the host writes a sample. -/
theorem inByte_writeInCell (s : State) (i : Nat) (v : BitVec 16) (a : Nat) :
    (s.writeInCell i v).inByte a =
      if a = 2 * i + 1 then v.extractLsb' 8 8 else if a = 2 * i then v.extractLsb' 0 8 else s.inByte a := by
  simp only [State.inByte, State.inp_writeInCell, State.inpEpoch_writeInCell, lookupAt_insertAt]
  split_ifs <;> rfl

/-- A byte of `IN` after the host writes a code byte. -/
theorem inByte_writeInByte (s : State) (i : Nat) (b : Byte) (a : Nat) :
    (s.writeInByte i b).inByte a = if a = 2 * i then b else s.inByte a := by
  simp only [State.inByte, State.inp_writeInByte, State.inpEpoch_writeInByte, lookupAt_insertAt]
  split_ifs <;> rfl

theorem toNat_lowByte (v : BitVec 16) : (v.extractLsb' 0 8).toNat = v.toNat % 256 := by
  simp [BitVec.extractLsb'_toNat]

theorem toNat_highByte (v : BitVec 16) : (v.extractLsb' 8 8).toNat = v.toNat / 256 := by
  have := v.isLt
  rw [BitVec.extractLsb'_toNat, Nat.shiftRight_eq_div_pow]
  omega

theorem hostBusWriteIn_sample_bytes {s : State} {k : Nat} (v : BitVec 16) (idle : s.busy = false)
    (hk : k < s.params.inCapacity) :
    ∃ t, hostBusWriteIn .sample .w16 (2 * k) v s = .next t ∧
      (t.inByte (2 * k)).toNat = v.toNat % 256 ∧ (t.inByte (2 * k + 1)).toNat = v.toNat / 256 ∧
      ∀ a, a ≠ 2 * k → a ≠ 2 * k + 1 → t.inByte a = s.inByte a := by
  refine ⟨s.writeInCell k v, ?_, ?_, ?_, fun a hlow hhigh => ?_⟩
  · rw [hostBusWriteIn_sample k v (inUnitType_of_idle _ idle), hostWriteIn_idle _ hk idle]
  · rw [inByte_writeInCell, if_neg (by omega), if_pos rfl, toNat_lowByte]
  · rw [inByte_writeInCell, if_pos rfl, toNat_highByte]
  · simp [inByte_writeInCell, hlow, hhigh]

theorem hostBusWriteIn_code_byte {s : State} {k : Nat} (v : BitVec 16) (idle : s.busy = false) (hk : k < s.params.inCapacity) :
    ∃ t, hostBusWriteIn .code .w8 k v s = .next t ∧ (t.readCode k).toNat = v.toNat % 256 ∧
      ∀ a, a ≠ 2 * k → t.inByte a = s.inByte a := by
  refine ⟨s.writeInByte k (v.extractLsb' 0 8), ?_, ?_, fun a hlow => ?_⟩
  · rw [hostBusWriteIn_code k v (inUnitType_of_idle _ idle), hostWriteIn_idle _ hk idle]
  · rw [State.readCode, inByte_writeInByte, if_pos rfl, toNat_lowByte]
  · simp [inByte_writeInByte, hlow]

/-- A bus read of a unit of `IN` at an idle core puts it in the local with the type the host names. -/
theorem hostBusReadIn_local {s : State} {w : BusWidth} {off k : Nat} (x : Nat) (ty : UnitType) (idle : s.busy = false)
    (hk : k < s.params.inCapacity) (reaches : busUnit ty w off = some k) :
    ∃ t, hostBusReadIn x ty w off s = .next t ∧ t.hostLocal x = unitWord ty (s.inCell k) := by
  have unitType := inUnitType_of_idle ty idle
  refine ⟨s.setHostLocal x (unitWord ty (s.inCell k)), ?_, hostLocal_setHostLocal_self _ _ _⟩
  rw [hostBusReadIn_unit x (unitType.symm ▸ reaches), hostReadIn_within x ty hk, unitType]

/-- A read of a unit of `OUT` after the handshake puts it in the local with the type of the latched operation. -/
theorem hostReadOut_local {s : State} {j : Nat} (x : Nat) (idle : s.busy = false) (hj : j < 2 * s.params.inCapacity)
    (hd : s.host.awaitingDone = false) :
    ∃ t, hostReadOut x j s = .next t ∧ t.hostLocal x = unitWord (outType s.opl) (s.outCell j) :=
  ⟨_, hostReadOut_done x hj idle hd, hostLocal_setHostLocal_self _ _ _⟩

/-- Settles O46, by the bus accesses one kind of unit at a time. -/
theorem sampleByteOrder : Obligations.SampleByteOrder := by
  intro s k idle
  refine ⟨fun v hk => hostBusWriteIn_sample_bytes v idle hk, fun v hk => hostBusWriteIn_code_byte v idle hk,
    fun x hk => ⟨?_, ?_⟩, fun x hopl => ?_, fun x hopl => ?_⟩
  · obtain ⟨t, ht, hx⟩ := hostBusReadIn_local x .sample idle hk (busUnit_sample_w16 k)
    exact ⟨t, ht, by rw [hx, toInt_unitWord_sample]; rfl⟩
  · obtain ⟨t, ht, hx⟩ := hostBusReadIn_local x .code idle hk (busUnit_code_w8 k)
    exact ⟨t, ht, by rw [hx, toNat_unitWord_code, readCode_eq_inCell]⟩
  · have unit := hostBusReadOut_unit (s := s) (w := .w16) (off := 2 * k) (j := k) x (by simp [hopl, outType])
    refine ⟨unit, fun hk hd => ?_⟩
    obtain ⟨t, ht, hx⟩ := hostReadOut_local x idle hk hd
    exact ⟨t, unit.trans ht, by rw [hx, hopl, outType, toInt_unitWord_sample]; rfl⟩
  · have unit := hostBusReadOut_unit (s := s) (w := .w8) (off := k) (j := k) x (by simp [hopl, outType])
    refine ⟨unit, fun hk hd => ?_⟩
    obtain ⟨t, ht, hx⟩ := hostReadOut_local x idle hk hd
    exact ⟨t, unit.trans ht, by rw [hx, hopl, outType, toNat_unitWord_code, outByte_eq_outCell]⟩

/-! ## The refused bus accesses (R56) -/

/-- Settles O47: in each case the access reaches no unit. -/
theorem misalignedAccessesRefused : Obligations.MisalignedAccessesRefused := by
  intro s x off v ty
  refine ⟨fun samples => ?_, fun noUnit => ?_, fun hopl => ?_, fun noUnit => ?_⟩
  · have unitType : s.inUnitType ty = .sample := by
      rcases samples with ⟨idle, rfl⟩ | ⟨busy, hopl⟩
      · exact inUnitType_of_idle _ idle
      · rw [inUnitType_of_busy ty busy, hopl, inType]
    have none : busUnit (s.inUnitType ty) .w8 off = none := unitType ▸ busUnit_sample_w8 off
    exact ⟨hostBusWriteIn_misaligned v none, hostBusReadIn_misaligned x none⟩
  · have none : busUnit (s.inUnitType ty) .w16 off = none := by
      rcases noUnit with odd | ⟨idle, rfl⟩ | ⟨busy, hopl⟩
      · exact busUnit_odd _ odd
      · rw [inUnitType_of_idle _ idle, busUnit_code_w16]
      · rw [inUnitType_of_busy ty busy, hopl, inType, busUnit_code_w16]
    exact ⟨hostBusWriteIn_misaligned v none, hostBusReadIn_misaligned x none⟩
  · exact hostBusReadOut_misaligned x (by rw [hopl, outType, busUnit_sample_w8])
  · refine hostBusReadOut_misaligned x ?_
    rcases noUnit with odd | hopl
    · exact busUnit_odd _ odd
    · rw [hopl, outType, busUnit_code_w16]

/-! ## The operations of a host program (R97) -/

/-- A label of the program is found, at a position that holds it. -/
theorem findLabel_of_mem {program : List HostOp} {n : Nat} (h : .label n ∈ program) :
    ∃ p, findLabel program n = some p ∧ program[p]? = some (.label n) := by
  induction program with
  | nil => cases h
  | cons op rest ih =>
    by_cases hop : op = .label n
    · exact ⟨0, by simp [findLabel, hop], by simp [hop]⟩
    · obtain ⟨p, hp, hat⟩ := ih (by simpa [Ne.symm hop] using h)
      exact ⟨p + 1, by simp [findLabel, hop, hp], by simpa using hat⟩

theorem hostBranch_taken {s : State} {x b n p : Nat} (clear : (s.hostLocal x).getLsbD b = false)
    (found : findLabel s.host.program n = some p) : hostBranch x b n s = .next (s.jumpHost p) := by
  simp [hostBranch, clear, found]

theorem hostBranch_not_taken {s : State} {x b n : Nat} (set : (s.hostLocal x).getLsbD b = true) :
    hostBranch x b n s = .next s := by
  simp [hostBranch, set]

/-- `ROUT` after the handshake reads the unit, signed for a sample and unsigned for a code byte. -/
theorem toInt_unitWord_outType (s : State) (j : Nat) :
    (unitWord (outType s.opl) (s.outCell j)).toInt =
      if s.opl = .decode then (s.outCell j).toInt else ((s.outByte (2 * j)).toNat : Int) := by
  cases s.opl with
  | decode => simp [outType, toInt_unitWord_sample]
  | encode =>
    have byte := (s.outByte (2 * j)).isLt
    have value : (unitWord .code (s.outCell j)).toNat = (s.outByte (2 * j)).toNat := by
      rw [toNat_unitWord_code, outByte_eq_outCell]
    simp only [outType, reduceCtorEq, if_false]
    rw [BitVec.toInt_eq_toNat_of_lt (by omega), value]

/-- Settles O48, one operation at a time. -/
theorem hostProgramOperations : Obligations.HostProgramOperations := by
  intro s hb
  have idle : s.advanceHost.busy = false := by simpa using hb
  refine ⟨fun i v hi => ?_, fun x j hj => ?_, fun n => rfl, fun x b n set => hostBranch_not_taken set,
    fun x b n clear held => ?_, rfl⟩
  · refine ⟨_, hostWriteIn_idle (fun s => s.writeInCell i v) hi idle, ?_, fun k hk => ?_, rfl⟩
    · simp [inCell_writeInCell]
    · rw [inCell_writeInCell, if_neg hk]; rfl
  · cases hd : s.host.awaitingDone with
    | false =>
      refine ⟨_, hostReadOut_done x hj idle hd, fun _ => ?_, nofun, fun y hy => hostLocal_setHostLocal_ne _ _ hy, rfl⟩
      rw [hostLocal_setHostLocal_self]
      exact toInt_unitWord_outType s j
    | true =>
      exact ⟨_, hostReadOut_awaiting x hj idle hd, nofun, fun _ => hostLocal_setHostLocal_self _ _ _,
        fun y hy => hostLocal_setHostLocal_ne _ _ hy, rfl⟩
  · obtain ⟨p, found, hat⟩ := findLabel_of_mem held
    exact ⟨p, hostBranch_taken (s := s.advanceHost) clear found, hat⟩

/-! ## Who writes which buffer (R51, R52) -/

/-- The core never writes `IN`. -/
theorem CoreEffect.inp_eq {s t : State} (h : CoreEffect s t) : t.inp = s.inp ∧ t.inpEpoch = s.inpEpoch := by
  cases h with
  | idle => exact ⟨rfl, rfl⟩
  | unit =>
    obtain ⟨_, _, _, _, _, _, _, _, _, inp, inpEpoch, _⟩ := unitOf_frame s.opl s.chl s s.ucnt.toNat
    exact ⟨inp, inpEpoch⟩
  | complete => exact ⟨rfl, rfl⟩

/-- A host operation never writes `OUT`: an accepted START and a reset forget its contents (R243, R231). -/
theorem HostEffect.out_changes {s t : State} {op : HostOp} (h : HostEffect s op t) :
    (t.out = s.out ∧ t.outEpoch = s.outEpoch) ∨
      (t.out = [] ∧ t.outEpoch = s.outEpoch + 1 ∧
        (op = .assertReset ∨ s.busy = false ∧ ∃ w, op = .wreg 0 w)) := by
  cases h with
  | accept w _ _ isStart idle => exact .inr ⟨rfl, rfl, .inr ⟨idle, w, isStart⟩⟩
  | reset isReset => exact .inr ⟨rfl, rfl, .inl isReset⟩
  | hostOnly | writeInLen | writeInCell | writeInByte | unsupported => exact .inl ⟨rfl, rfl⟩

/-- Settles O60, by the effects a step can have. -/
theorem bufferDirections : Obligations.BufferDirections := by
  intro s t h
  rcases step_next h with ⟨ha, he⟩ | ⟨ha, op, hop, he⟩ | ⟨_, _, rfl⟩
  · exact ⟨fun _ => he.inp_eq, fun hh => by simp [ha] at hh⟩
  · exact ⟨fun hc => by simp [ha] at hc, fun _ => by simpa [hop] using he.out_changes⟩
  · exact ⟨fun _ => ⟨rfl, rfl⟩, fun _ => .inl ⟨rfl, rfl⟩⟩

end Sys2Proof.Machine
end

section
/-! The host's `WAIT` loop (O49): while the host polls `STATUS`, every step either leaves the loop or brings its exit nearer. -/

namespace Sys2Proof.Machine

variable {x n p : Nat} {s t : State}

/-! ## Where the host is in the loop -/

/-- The host program holds `WAIT xN` with label `n` at position `p`, and the label is found there (R98). -/
structure WaitAt (x n p : Nat) (program : List HostOp) : Prop where
  label : program[p]? = some (.label n)
  poll : program[p + 1]? = some (.rreg x 2)
  branch : program[p + 2]? = some (.brbit0 x 1 n)
  found : findLabel program n = some p

/-- What the wait ends with: the core is idle, and the local holds a `STATUS` with `DONE` set, whose read has closed the
handshake. -/
structure SawDone (x : Nat) (s : State) : Prop where
  idle : s.busy = false
  read : s.hostLocal x = s.status
  done : s.done = true
  closed : s.host.awaitingDone = false

/-- The positions in the loop: at its label, at the poll, and at the branch, with a `STATUS` that shows no `DONE` or with one
that does. -/
inductive LoopPosition (x p : Nat) (s : State) : Prop where
  | atLabel (here : s.host.hpc = p)
  | atPoll (here : s.host.hpc = p + 1)
  | atBranchAgain (here : s.host.hpc = p + 2) (clear : (s.hostLocal x).getLsbD 1 = false)
  | atBranchOut (here : s.host.hpc = p + 2) (sawDone : SawDone x s)

/-- A host in the loop, with its command under way or completed. -/
structure Waiting (x n p : Nat) (s : State) : Prop where
  inv : Inv s
  program : WaitAt x n p s.host.program
  command : s.busy = true ∨ s.done = true
  position : LoopPosition x p s

theorem Waiting.takeTurn (h : Waiting x n p s) : Waiting x n p s.takeTurn where
  inv := h.inv.takeTurn
  program := h.program
  command := h.command
  position := by
    cases h.position with
    | atLabel here => exact .atLabel here
    | atPoll here => exact .atPoll here
    | atBranchAgain here clear => exact .atBranchAgain here clear
    | atBranchOut here sawDone => exact .atBranchOut here ⟨sawDone.idle, sawDone.read, sawDone.done, sawDone.closed⟩

/-! ## What is left of the wait -/

/-- How many steps the running command still takes (R185). -/
def coreStepsLeft (s : State) : Nat :=
  if s.busy then unitCount s.opl s.chl s.nl.toNat - s.ucnt.toNat + 1 else 0

/-- How many operations the host is from leaving the loop, once the core shows `DONE`. -/
def operationsLeft (x p : Nat) (s : State) : Nat :=
  if s.host.hpc = p then 3
  else if s.host.hpc = p + 1 then 2
  else if (s.hostLocal x).getLsbD 1 then 1
  else 4

/-- What every step in the loop lowers: the schedule's entries, then the command's steps, then the host's operations. -/
def stepsLeft (x p : Nat) (s : State) : ℕ ×ₗ ℕ ×ₗ ℕ :=
  toLex (s.schedule.length, toLex (coreStepsLeft s, operationsLeft x p s))

theorem operationsLeft_label (h : s.host.hpc = p) : operationsLeft x p s = 3 := by
  simp [operationsLeft, h]

theorem operationsLeft_poll (h : s.host.hpc = p + 1) : operationsLeft x p s = 2 := by
  simp [operationsLeft, h]

theorem operationsLeft_branch (h : s.host.hpc = p + 2) :
    operationsLeft x p s = if (s.hostLocal x).getLsbD 1 then 1 else 4 := by
  simp [operationsLeft, h]

/-! ## A turn of the core -/

theorem CoreEffect.agents_eq (h : CoreEffect s t) : t.host = s.host ∧ t.schedule = s.schedule := by
  cases h with
  | idle => exact ⟨rfl, rfl⟩
  | unit =>
    obtain ⟨_, _, _, _, _, _, _, _, _, _, _, _, host, schedule⟩ := unitOf_frame s.opl s.chl s s.ucnt.toNat
    exact ⟨host, schedule⟩
  | complete => exact ⟨rfl, rfl⟩

/-- A busy core is still busy after a unit and shows `DONE` after the completion (R160, R184). -/
theorem CoreEffect.busy_or_done (h : CoreEffect s t) (command : s.busy = true ∨ s.done = true) :
    t.busy = true ∨ t.done = true := by
  cases h with
  | idle => exact command
  | unit isBusy =>
    obtain ⟨_, _, _, status, _⟩ := unitOf_frame s.opl s.chl s s.ucnt.toNat
    exact .inl (by rw [busy_advanceUnit, State.busy, status]; exact isBusy)
  | complete => exact .inr (done_complete s _ _)

/-- A turn of a busy core is one of the command's steps. -/
theorem CoreEffect.coreStepsLeft_lt (h : CoreEffect s t) (isBusy : s.busy = true) :
    coreStepsLeft t < coreStepsLeft s := by
  cases h with
  | idle isIdle => simp [isBusy] at isIdle
  | unit _ more =>
    obtain ⟨_, _, _, status, _, opl, chl, nl, ucnt, _⟩ := unitOf_frame s.opl s.chl s s.ucnt.toNat
    have still : (unitOf s.opl s.chl s s.ucnt.toNat).busy = true := by rw [State.busy, status]; exact isBusy
    have counted := ucnt_succ more
    simp only [coreStepsLeft, busy_advanceUnit, still, isBusy, if_true, State.opl_advanceUnit, State.chl_advanceUnit,
      State.nl_advanceUnit, State.ucnt_advanceUnit, opl, chl, nl, ucnt, counted]
    omega
  | complete => simp [coreStepsLeft, isBusy]

theorem Waiting.coreEffect (h : Waiting x n p s) (he : CoreEffect s t) : Waiting x n p t := by
  obtain ⟨host, _⟩ := he.agents_eq
  refine ⟨he.inv h.inv, host ▸ h.program, he.busy_or_done h.command, ?_⟩
  have locals : t.hostLocal x = s.hostLocal x := by rw [State.hostLocal, host, State.hostLocal]
  cases h.position with
  | atLabel here => exact .atLabel (host ▸ here)
  | atPoll here => exact .atPoll (host ▸ here)
  | atBranchAgain here clear => exact .atBranchAgain (host ▸ here) (locals ▸ clear)
  | atBranchOut here sawDone =>
    cases he with
    | idle => exact .atBranchOut here sawDone
    | unit isBusy | complete isBusy => simp [sawDone.idle] at isBusy

/-! ## A turn of the host -/

theorem hostTurn_of_hostOp {op : HostOp} (h : s.hostOp = some op) : hostTurn s = hostStep op s := by
  simp only [hostTurn, h]

theorem hostOp_of_hpc {q : Nat} (h : s.host.hpc = q) : s.hostOp = s.host.program[q]? := by
  rw [State.hostOp, h]

/-- How a turn of a host in the loop ends. -/
inductive LoopTurn (x n p : Nat) (s t : State) : Prop where
  /-- The host has left the loop. -/
  | leave (here : t.host.hpc = p + 3) (sawDone : SawDone x t)
  /-- The host goes on in the loop; once the core is idle, with fewer operations left. -/
  | stay (waiting : Waiting x n p t) (schedule : t.schedule = s.schedule) (steps : coreStepsLeft t = coreStepsLeft s)
      (nearer : s.busy = false → operationsLeft x p t < operationsLeft x p s)

/-- A host operation that changes only the host, and leaves it in the loop. -/
theorem Waiting.stay {op : HostOp} (h : Waiting x n p s) (hstep : hostStep op s = .next t)
    (frame : t = { s with host := t.host }) (program : t.host.program = s.host.program)
    (position : LoopPosition x p t) (nearer : s.busy = false → operationsLeft x p t < operationsLeft x p s) :
    LoopTurn x n p s t := by
  have status : t.status = s.status := by rw [frame]
  have command : t.busy = true ∨ t.done = true := by
    simp only [State.busy, State.done, status]; exact h.command
  refine .stay ⟨(hostStep_next hstep).inv h.inv, program ▸ h.program, command, position⟩ ?_ ?_ nearer
  · rw [frame]
  · rw [frame]; rfl

theorem awaitingDone_noteRead (h : s.done = true) : (s.noteRead 2).host.awaitingDone = false := by
  simp [h]

/-- The poll reads a `STATUS` that shows `DONE`, at an idle core and so closing the handshake, or one that does not. -/
theorem Waiting.poll (h : Waiting x n p s) (here : s.host.hpc = p + 1) :
    LoopTurn x n p s ((s.advanceHost.noteRead 2).setHostLocal x s.status) := by
  have next : ((s.advanceHost.noteRead 2).setHostLocal x s.status).host.hpc = p + 2 := congrArg (· + 1) here
  have read := hostLocal_setHostLocal_self (s.advanceHost.noteRead 2) x s.status
  refine h.stay (op := .rreg x 2) rfl rfl rfl ?_ fun idle => ?_
  · cases hd : s.done with
    | false => exact .atBranchAgain next (by rw [read]; exact hd)
    | true =>
      have idle : s.busy = false := by
        by_contra busy
        simp [h.inv.not_done_of_busy (by simpa using busy)] at hd
      exact .atBranchOut next ⟨idle, read, hd, awaitingDone_noteRead (s := s.advanceHost) hd⟩
  · have done : s.done = true := by simpa [idle] using h.command
    have shown : s.status.getLsbD 1 = true := done
    rw [operationsLeft_poll here, operationsLeft_branch next, read, shown]
    decide

theorem Waiting.hostTurn (h : Waiting x n p s) : ∃ t, Machine.hostTurn s = .next t ∧ LoopTurn x n p s t := by
  cases h.position with
  | atLabel here =>
    have next : s.advanceHost.host.hpc = p + 1 := congrArg (· + 1) here
    refine ⟨_, hostTurn_of_hostOp ((hostOp_of_hpc here).trans h.program.label),
      h.stay (op := .label n) rfl rfl rfl (.atPoll next) fun _ => ?_⟩
    rw [operationsLeft_label here, operationsLeft_poll next]; decide
  | atPoll here => exact ⟨_, hostTurn_of_hostOp ((hostOp_of_hpc here).trans h.program.poll), h.poll here⟩
  | atBranchAgain here clear =>
    have back : hostStep (.brbit0 x 1 n) s = .next (s.advanceHost.jumpHost p) :=
      hostBranch_taken (s := s.advanceHost) clear h.program.found
    have next : (s.advanceHost.jumpHost p).host.hpc = p := rfl
    refine ⟨_, (hostTurn_of_hostOp ((hostOp_of_hpc here).trans h.program.branch)).trans back,
      h.stay back rfl rfl (.atLabel next) fun _ => ?_⟩
    rw [operationsLeft_branch here, clear, operationsLeft_label next]; decide
  | atBranchOut here sawDone =>
    have set : (s.hostLocal x).getLsbD 1 = true := sawDone.read ▸ sawDone.done
    have out : hostStep (.brbit0 x 1 n) s = .next s.advanceHost := hostBranch_not_taken (s := s.advanceHost) set
    exact ⟨_, (hostTurn_of_hostOp ((hostOp_of_hpc here).trans h.program.branch)).trans out, .leave (congrArg (· + 1) here)
      ⟨sawDone.idle, sawDone.read, sawDone.done, sawDone.closed⟩⟩

/-! ## The whole wait -/

/-- A step lowers what is left by its entry of the schedule, or without one by the turn the schedule's end gives. -/
theorem stepsLeft_lt (schedule : t.schedule = s.schedule.tail)
    (unscheduled : s.schedule = [] →
      coreStepsLeft t < coreStepsLeft s ∨
        coreStepsLeft t = coreStepsLeft s ∧ operationsLeft x p t < operationsLeft x p s) :
    stepsLeft x p t < stepsLeft x p s := by
  cases hs : s.schedule with
  | nil => simpa [stepsLeft, Prod.Lex.toLex_lt_toLex, schedule, hs] using unscheduled hs
  | cons a rest => simp [stepsLeft, Prod.Lex.toLex_lt_toLex, schedule, hs]

/-- With the schedule used up, the core has the turn while it is busy (R246). -/
theorem nextAgent_unscheduled (h : s.schedule = []) : s.nextAgent = if s.busy then .core else .host := by
  simp only [State.nextAgent, h]

/-- Every step in the loop goes on, and either leaves it or has less left. -/
theorem Waiting.step (h : Waiting x n p s) :
    ∃ t, Machine.step s = .next t ∧
      (t.host.hpc = p + 3 ∧ SawDone x t ∨ Waiting x n p t ∧ stepsLeft x p t < stepsLeft x p s) := by
  cases ha : s.nextAgent with
  | core =>
    obtain ⟨t, ht⟩ := coreTurn_completes s.takeTurn
    have he := coreTurn_next ht
    refine ⟨t, by simp only [Machine.step, turn, ha, ht], .inr ⟨h.takeTurn.coreEffect he, ?_⟩⟩
    refine stepsLeft_lt he.agents_eq.2 fun unscheduled => .inl (he.coreStepsLeft_lt ?_)
    simpa [nextAgent_unscheduled unscheduled] using ha
  | host =>
    obtain ⟨t, ht, hturn⟩ := h.takeTurn.hostTurn
    refine ⟨t, by simp only [Machine.step, turn, ha, ht], ?_⟩
    cases hturn with
    | leave here sawDone => exact .inl ⟨here, sawDone⟩
    | stay waiting schedule steps nearer =>
      refine .inr ⟨waiting, stepsLeft_lt schedule fun unscheduled => .inr ⟨steps, nearer ?_⟩⟩
      simpa [nextAgent_unscheduled unscheduled] using ha

/-- A host in the loop leaves it, by induction on what is left. -/
theorem Waiting.exits (h : Waiting x n p s) : ∃ k t, runSteps k s = .next t ∧ t.host.hpc = p + 3 ∧ SawDone x t := by
  induction hm : stepsLeft x p s using WellFoundedLT.induction generalizing s with
  | ind m ih =>
    obtain ⟨u, hu, ⟨here, sawDone⟩ | ⟨waiting, less⟩⟩ := h.step
    · exact ⟨1, u, by simp only [runSteps, hu], here, sawDone⟩
    · obtain ⟨k, t, ht, exited⟩ := ih _ (hm ▸ less) waiting rfl
      exact ⟨k + 1, t, by simp only [runSteps, hu, ht], exited⟩

/-- Settles O49: the state is in the loop, at its label. -/
theorem waitLoopExits : Obligations.WaitLoopExits := by
  intro s x n p inv busy label poll branch found here
  have waiting : Waiting x n p s := ⟨inv, ⟨label, poll, branch, found⟩, .inl busy, .atLabel here⟩
  obtain ⟨k, t, ht, out, sawDone⟩ := waiting.exits
  exact ⟨k, t, ht, out, sawDone.idle, sawDone.read, sawDone.done, sawDone.closed⟩

end Sys2Proof.Machine
end

section
/-! What a whole command writes and what it depends on (O36, O37, O41): the units of `IN` that each unit reads and the units of
`OUT` that it stores, and three inductions over the units of a command. -/

namespace Sys2Proof.Machine

/-! ## The completed command -/

/-- The state after the START, all units and the completion. -/
def afterCommand (op : Op) (l : Layout) (s : State) : State :=
  (afterUnits op l s (unitCount op l s.inLen.toNat)).complete op l

theorem midway_allUnits (op : Op) (l : Layout) (s : State) :
    Midway op l s (unitCount op l s.inLen.toNat) (afterUnits op l s (unitCount op l s.inLen.toNat)) :=
  midway_afterUnits op l s _ (unitCount_lt op l s)

/-- A command runs to its completion (R185). -/
theorem execTimes_command (op : Op) (l : Layout) {s : State} (h : s.startable) :
    execTimes (.ofCommand op l) (1 + (unitCount op l s.inLen.toNat + 1)) s = .next (afterCommand op l s) := by
  have hm := midway_allUnits op l s
  rw [← Nat.add_assoc, execTimes_succ (execTimes_units op l h _ le_rfl), exec_noUnit (running_of_midway hm)]
  · rfl
  · rw [hm.ucnt, hm.nl]; exact lt_irrefl _

theorem opl_afterCommand (op : Op) (l : Layout) (s : State) : (afterCommand op l s).opl = op :=
  (midway_allUnits op l s).opl

theorem status_afterCommand (op : Op) (l : Layout) (s : State) :
    (afterCommand op l s).status = doneStatus (truncated op l s.inLen.toNat) := by
  rw [afterCommand, State.status_complete, (midway_allUnits op l s).nl]

/-- `OUT_LEN` holds the whole output length: it does not wrap (R143, R7). -/
theorem outLen_afterCommand (op : Op) (l : Layout) {s : State} (h : s.startable)
    (capacity : s.params.inCapacity ≤ 2147483647) :
    (afterCommand op l s).outLen.toNat = outLength op l s.inLen.toNat := by
  obtain ⟨_, fits⟩ := h
  have bound := outLength_le op l s.inLen.toNat
  rw [afterCommand, State.outLen_complete, (midway_allUnits op l s).nl, BitVec.toNat_ofNat, Nat.mod_eq_of_lt (by omega)]

/-! ## The units of `IN` a unit reads (R141) -/

/-- The input units that unit `u` of a command on `n` of them reads (R144, R145, R148, R151, R152, R154). -/
def unitInputs : Op → Layout → Nat → Nat → List Nat
  | .decode, .mono, _, u => [u]
  | .decode, .stereo, _, u => [u]
  | .decode, .quad, n, g => [lrIndex g, clIndex .decode n g]
  | .encode, .mono, _, u => [2 * u, 2 * u + 1]
  | .encode, .stereo, _, u => [2 * u, 2 * u + 1]
  | .encode, .quad, _, g => [4 * g, 4 * g + 1, 4 * g + 2, 4 * g + 3]

/-- A command reads only its input. -/
theorem unitInputs_lt {op : Op} {l : Layout} {n u : Nat} (hu : u < unitCount op l n) :
    ∀ i ∈ unitInputs op l n u, i < n := by
  cases op <;> cases l
  case decode.quad =>
    have whole : 2 * unitCount .decode .quad n ≤ n := by simp only [unitCount]; omega
    simpa [unitInputs] using ⟨(lrIndex_lt hu).trans_le whole, (clIndex_lt hu).trans_le whole⟩
  all_goals
    simp only [unitCount] at hu
    simp [unitInputs]
    omega

/-! ## The bytes of `OUT` a unit stores (R52) -/

/-- Whether a byte of `OUT` has a defined value. -/
def State.outListed (s : State) (a : Nat) : Prop := lookupAt s.out a ≠ none

@[simp] theorem outListed_setSlot (s : State) (c : Fin 4) (v : Slot) (a : Nat) :
    (s.setSlot c v).outListed a ↔ s.outListed a := Iff.rfl

@[simp] theorem outListed_advanceUnit (s : State) (a : Nat) : s.advanceUnit.outListed a ↔ s.outListed a := Iff.rfl

theorem outListed_accept (s : State) (op : Op) (l : Layout) (a : Nat) : ¬ (s.accept op l).outListed a :=
  fun listed => listed (lookupAt_nil a)

/-- A sample stored defines the two bytes of its cell. -/
theorem outListed_writeSample (s : State) (j : Nat) (v : Sample) (a : Nat) :
    (s.writeSample j v).outListed a ↔ s.outListed a ∨ a / 2 = j := by
  simp only [State.outListed, State.out_writeSample, lookupAt_insertAt]
  split_ifs <;> simp <;> omega

/-- A code byte stored defines the low byte of its cell. -/
theorem outListed_writeCode (s : State) (j : Nat) (b : Byte) (a : Nat) :
    (s.writeCode j b).outListed a ↔ s.outListed a ∨ a / 2 = j ∧ a % 2 = 0 := by
  simp only [State.outListed, State.out_writeCode, lookupAt_insertAt]
  split_ifs <;> simp <;> omega

/-- Whether unit `u` of a command on `n` input units stores output unit `j` (R144, R145, R148, R151, R152, R154). -/
def StoresUnit (op : Op) (l : Layout) (n u j : Nat) : Prop :=
  match op, l with
  | .decode, l => j / outPerUnit .decode l = u
  | .encode, .quad => j = lrIndex u ∨ j = clIndex .encode n u
  | .encode, _ => j = u

theorem outListed_unitOf (op : Op) (l : Layout) (s : State) (u a : Nat) :
    (unitOf op l s u).outListed a ↔
      s.outListed a ∨ StoresUnit op l s.nl.toNat u (a / 2) ∧ (op = .encode → a % 2 = 0) := by
  cases op <;> cases l <;>
    simp only [unitOf, decMonoUnit, decStereoUnit, decQuadUnit, encMonoUnit, encStereoUnit, encQuadUnit, State.dec,
      State.enc, outListed_writeSample, outListed_writeCode, outListed_setSlot, StoresUnit, outPerUnit, or_assoc,
      reduceCtorEq, false_implies, true_implies, and_true]
  case encode.quad => exact or_congr_right or_and_right.symm
  case decode.mono | decode.stereo | decode.quad => exact or_congr_right (by omega)

/-- The bytes defined after `k` units are those the units stored. -/
theorem outListed_afterUnits (op : Op) (l : Layout) (s : State) {k : Nat} (hk : k ≤ unitCount op l s.inLen.toNat)
    (a : Nat) :
    (afterUnits op l s k).outListed a ↔
      ∃ u < k, StoresUnit op l s.inLen.toNat u (a / 2) ∧ (op = .encode → a % 2 = 0) := by
  induction k with
  | zero => simpa [afterUnits] using outListed_accept s op l a
  | succ k ih =>
    have nl := (midway_afterUnits op l s k (by have := unitCount_lt op l s; omega)).nl
    rw [afterUnits, outListed_advanceUnit, outListed_unitOf, ih (by omega), nl]
    simp only [Nat.lt_succ_iff_lt_or_eq, or_and_right, exists_or, exists_eq_left]

/-! ## The units cover the output (R143, R147) -/

/-- Byte `j` of a quad stream is an (L, R) byte or a (C, LFE) byte of a group (R147). -/
theorem exists_quad_group {op : Op} {n j : Nat} (hj : j < 2 * unitCount op .quad n) :
    ∃ g < unitCount op .quad n, j = lrIndex g ∨ j = clIndex op n g := by
  obtain ⟨hU, ht⟩ := unitCount_quad op n
  have half := halfLength_cases op n (j / 16384)
  by_cases hr : j % 16384 < halfLength op n (j / 16384)
  · have block : (8192 * (j / 16384) + j % 16384) / 8192 = j / 16384 := by omega
    exact ⟨8192 * (j / 16384) + j % 16384, by omega, .inl (by unfold lrIndex; omega)⟩
  · have block : (8192 * (j / 16384) + (j % 16384 - halfLength op n (j / 16384))) / 8192 = j / 16384 := by omega
    refine ⟨8192 * (j / 16384) + (j % 16384 - halfLength op n (j / 16384)), by omega, .inr ?_⟩
    unfold clIndex
    rw [block]
    omega

/-- The units of a command store exactly its output. -/
theorem exists_storesUnit_iff (op : Op) (l : Layout) (n j : Nat) :
    (∃ u < unitCount op l n, StoresUnit op l n u j) ↔ j < outLength op l n := by
  cases op with
  | decode =>
    cases l <;> simp only [StoresUnit, outLength, outPerUnit, exists_eq_right'] <;> omega
  | encode =>
    cases l with
    | mono | stereo => simp [StoresUnit, outLength, outPerUnit]
    | quad =>
      constructor
      · rintro ⟨g, hg, rfl | rfl⟩
        · exact lrIndex_lt hg
        · exact clIndex_lt hg
      · exact exists_quad_group

/-- A completed command has defined the bytes of its output alone. -/
theorem outListed_afterCommand (op : Op) (l : Layout) (s : State) (a : Nat) :
    (afterCommand op l s).outListed a ↔ a / 2 < outLength op l s.inLen.toNat ∧ (op = .encode → a % 2 = 0) := by
  rw [← exists_storesUnit_iff]
  have listed : (afterCommand op l s).outListed a ↔ _ := outListed_afterUnits op l s le_rfl a
  simpa only [← and_assoc, exists_and_right] using listed

/-- The bytes of an output unit, as the operation writes it, are among those a completed command has defined. -/
theorem outListed_of_lt_outLength {op : Op} {l : Layout} {s : State} {j a : Nat} (hj : j < outLength op l s.inLen.toNat)
    (ha : a / 2 = j) (low : (afterCommand op l s).opl = .encode → a % 2 = 0) : (afterCommand op l s).outListed a :=
  (outListed_afterCommand op l s a).2 ⟨ha ▸ hj, opl_afterCommand op l s ▸ low⟩

/-- Settles O36: the bytes defined are those the units stored, and the units cover the output. -/
theorem outputWrittenExactly : Obligations.OutputWrittenExactly := by
  intro op l s h capacity
  refine ⟨_, execTimes_command op l h, fun a => ?_⟩
  rw [outLen_afterCommand op l h capacity]
  exact outListed_afterCommand op l s a

/-! ## What a command depends on (R186, R233) -/

theorem outUnit_of_decode {s : State} (h : s.opl = .decode) (j : Nat) :
    s.outUnit j = s.outByte (2 * j + 1) ++ s.outByte (2 * j) := by
  simp only [State.outUnit, h, outType, State.outCell]

theorem outUnit_of_encode {s : State} (h : s.opl = .encode) (j : Nat) :
    s.outUnit j = (s.outByte (2 * j)).setWidth 16 := by
  simp only [State.outUnit, h, outType]

/-- Output units of equal bytes are equal: both bytes of the cell for a sample, the low one for a code byte. -/
theorem outUnit_congr {s s' : State} {j : Nat} (opl : s.opl = s'.opl)
    (bytes : ∀ a, a / 2 = j → (s.opl = .encode → a % 2 = 0) → s.outByte a = s'.outByte a) :
    s.outUnit j = s'.outUnit j := by
  have low : s.outByte (2 * j) = s'.outByte (2 * j) := bytes _ (by omega) (by omega)
  cases h : s.opl with
  | decode =>
    have high : s.outByte (2 * j + 1) = s'.outByte (2 * j + 1) := bytes _ (by omega) (by simp [h])
    rw [outUnit_of_decode h, outUnit_of_decode (opl ▸ h), high, low]
  | encode => rw [outUnit_of_encode h, outUnit_of_encode (opl ▸ h), low]

/-- Input unit `i` as the operation reads it is the same: a code byte for DECODE, a sample for ENCODE (R50). -/
def SameUnit (op : Op) (s s' : State) (i : Nat) : Prop :=
  match op with
  | .decode => s.readCode i = s'.readCode i
  | .encode => s.readSample i = s'.readSample i

/-- What a run computes with and writes: the step table, the predictor slots, `OUT` and the latched length. -/
structure SameRun (s s' : State) : Prop where
  table : s.params.stepTable = s'.params.stepTable
  slots : s.slots = s'.slots
  out : s.out = s'.out
  nl : s.nl = s'.nl

/-- A unit computes the same from the same: what it writes is one expression in the table, the slots, `OUT` and its inputs. -/
theorem SameRun.unitOf {op : Op} {l : Layout} {s s' : State} {u : Nat} (h : SameRun s s')
    (input : ∀ i ∈ unitInputs op l s.nl.toNat u, SameUnit op s s' i) :
    SameRun (unitOf op l s u) (unitOf op l s' u) := by
  obtain ⟨table, slots, out, nl⟩ := h
  cases op <;> cases l
  all_goals
    simp only [unitInputs, SameUnit, nl, List.forall_mem_cons] at input
    constructor <;>
      simp [Machine.unitOf, decMonoUnit, decStereoUnit, decQuadUnit, encMonoUnit, encStereoUnit, encQuadUnit, State.dec,
        State.enc, State.slot, table, slots, out, nl, input]

/-- What a unit reads is still the input the command was started with: no unit changes `IN` (R51). -/
theorem Midway.inByte {op : Op} {l : Layout} {s t : State} {k : Nat} (h : Midway op l s k t) (a : Nat) :
    t.inByte a = s.inByte a := by
  simp only [State.inByte, h.inp, h.inpEpoch]

theorem Midway.readCode {op : Op} {l : Layout} {s t : State} {k : Nat} (h : Midway op l s k t) (i : Nat) :
    t.readCode i = s.readCode i :=
  h.inByte _

theorem Midway.readSample {op : Op} {l : Layout} {s t : State} {k : Nat} (h : Midway op l s k t) (i : Nat) :
    t.readSample i = s.readSample i := by
  simp only [State.readSample, State.inCell, h.inByte]

theorem SameRun.afterUnits {op : Op} {l : Layout} {s s' : State} (table : s.params.stepTable = s'.params.stepTable)
    (length : s.inLen = s'.inLen) (input : ∀ i < s.inLen.toNat, SameUnit op s s' i) {k : Nat}
    (hk : k ≤ unitCount op l s.inLen.toNat) : SameRun (afterUnits op l s k) (afterUnits op l s' k) := by
  induction k with
  | zero => exact ⟨table, rfl, rfl, length⟩
  | succ k ih =>
    have bound := unitCount_lt op l s
    have hm := midway_afterUnits op l s k (by omega)
    have hm' := midway_afterUnits op l s' k (by omega)
    have same := (ih (by omega)).unitOf (op := op) (l := l) (u := k) fun i hi => by
      have given := input i (unitInputs_lt (by omega) i (hm.nl ▸ hi))
      cases op with
      | decode => exact (hm.readCode i).trans (given.trans (hm'.readCode i).symm)
      | encode => exact (hm.readSample i).trans (given.trans (hm'.readSample i).symm)
    exact ⟨same.table, same.slots, same.out, same.nl⟩

theorem exists_outByte_of_outListed {s : State} {a : Nat} (listed : s.outListed a) :
    ∃ b, lookupAt s.out a = some b ∧ s.outByte a = b := by
  obtain ⟨b, hb⟩ := Option.ne_none_iff_exists'.1 listed
  exact ⟨b, hb, by rw [State.outByte, hb, Option.getD_some]⟩

/-- A byte with a defined value does not depend on the epoch of `OUT`. -/
theorem outByte_congr {s s' : State} {a : Nat} (out : s.out = s'.out) (listed : s.outListed a) :
    s.outByte a = s'.outByte a := by
  obtain ⟨b, hb, value⟩ := exists_outByte_of_outListed listed
  rw [value, State.outByte, ← out, hb, Option.getD_some]

/-- What the host reads of a completed command, within `OUT_LEN`, is stored bytes (R52). -/
theorem outUnit_afterCommand_congr {op : Op} {l : Layout} {s s' : State}
    (out : (afterCommand op l s).out = (afterCommand op l s').out) {j : Nat} (hj : j < outLength op l s.inLen.toNat) :
    (afterCommand op l s).outUnit j = (afterCommand op l s').outUnit j :=
  outUnit_congr ((opl_afterCommand op l s).trans (opl_afterCommand op l s').symm) fun _ ha low =>
    outByte_congr out (outListed_of_lt_outLength hj ha low)

theorem err_afterCommand (op : Op) (l : Layout) (s : State) : (afterCommand op l s).err = 0#2 := by
  rw [State.err, status_afterCommand]
  cases truncated op l s.inLen.toNat <;> decide

/-- Settles O37, by induction on the units: two runs of one command on one input keep the same slots and the same `OUT`. -/
theorem resultDependsOnlyOnInput : Obligations.ResultDependsOnlyOnInput := by
  intro op l s s' t t' h h' capacity capacity' table length codes samples run run'
  have input : ∀ i < s.inLen.toNat, SameUnit op s s' i := by
    cases op with
    | decode => exact codes rfl
    | encode => exact samples rfl
  obtain rfl : afterCommand op l s = t := by simpa [execTimes_command op l h] using run
  obtain rfl : afterCommand op l s' = t' := by simpa [execTimes_command op l h'] using run'
  have same := SameRun.afterUnits (l := l) table length input le_rfl
  have status : (afterCommand op l s).status = (afterCommand op l s').status := by
    rw [status_afterCommand, status_afterCommand, length]
  have out : (afterCommand op l s).out = (afterCommand op l s').out := by
    simpa [afterCommand, length] using same.out
  have slots : (afterCommand op l s).slots = (afterCommand op l s').slots := by
    simpa [afterCommand, length] using same.slots
  refine ⟨?_, status, slots⟩
  have trunc : (afterCommand op l s).trunc = (afterCommand op l s').trunc := by rw [State.trunc, status, State.trunc]
  have units : (List.range (outLength op l s.inLen.toNat)).map (afterCommand op l s).outUnit =
      (List.range (outLength op l s.inLen.toNat)).map (afterCommand op l s').outUnit :=
    List.map_congr_left fun j hj => outUnit_afterCommand_congr out (List.mem_range.1 hj)
  simp only [State.result, err_afterCommand, outLen_afterCommand op l h capacity, outLen_afterCommand op l h' capacity',
    ← length, units, trunc]

/-! ## Silence (R162) -/

theorem update_zero {T : StepTable} (h : StepTableLegal T) : update T Slot.zero 0#4 = Slot.zero := by
  have step : stepSize T Slot.zero.sidx = 7 := congrArg BitVec.toNat h.1
  simp only [update, diff, step]
  decide

theorem encodeCode_zero {T : StepTable} (h : StepTableLegal T) : encodeCode T Slot.zero 0#16 = 0#4 := by
  have step : stepSize T Slot.zero.sidx = 7 := congrArg BitVec.toNat h.1
  simp only [encodeCode, step]
  decide

/-- A state whose slots are all (0, 0) and whose `OUT` lists only zeros. -/
structure Silent (s : State) : Prop where
  legal : StepTableLegal s.params.stepTable
  slots : ∀ c, s.slot c = Slot.zero
  out : ∀ a b, lookupAt s.out a = some b → b = 0#8

theorem setSlot_slot (s : State) (c : Fin 4) : s.setSlot c (s.slot c) = s := by
  simp [State.setSlot, State.slot]

/-- Code 0 leaves a silent state as it is, and gives sample 0. -/
theorem Silent.dec {s : State} (h : Silent s) (c : Fin 4) : s.dec c 0#4 = (0#16, s) := by
  rw [State.dec, decodeSample, h.slots c, update_zero h.legal, ← h.slots c, setSlot_slot, h.slots c]
  rfl

/-- Sample 0 leaves a silent state as it is, and gives code 0. -/
theorem Silent.enc {s : State} (h : Silent s) (c : Fin 4) : s.enc c 0#16 = (0#4, s) := by
  rw [State.enc, encodeSample, h.slots c, encodeCode_zero h.legal, update_zero h.legal, ← h.slots c, setSlot_slot]

theorem Silent.writeCode {s : State} (h : Silent s) (j : Nat) : Silent (s.writeCode j 0#8) where
  legal := h.legal
  slots := h.slots
  out a b hb := by
    rw [State.out_writeCode, lookupAt_insertAt] at hb
    split at hb
    · exact (Option.some.inj hb).symm
    · exact h.out a b hb

theorem Silent.writeSample {s : State} (h : Silent s) (j : Nat) : Silent (s.writeSample j 0#16) where
  legal := h.legal
  slots := h.slots
  out a b hb := by
    rw [State.out_writeSample, lookupAt_insertAt, lookupAt_insertAt] at hb
    split_ifs at hb
    · exact (Option.some.inj hb).symm
    · exact (Option.some.inj hb).symm
    · exact h.out a b hb

/-- Input unit `i` as the operation reads it is zero (R50). -/
def ZeroUnit (op : Op) (s : State) (i : Nat) : Prop :=
  match op with
  | .decode => s.readCode i = 0#8
  | .encode => s.readSample i = 0#16

theorem lo_zero : lo 0#8 = 0#4 := rfl
theorem hi_zero : hi 0#8 = 0#4 := rfl
theorem pack_zero : pack 0#4 0#4 = 0#8 := rfl

/-- A unit of zeros writes zeros and leaves the slots at (0, 0). -/
theorem Silent.unitOf {op : Op} {l : Layout} {s : State} {u : Nat} (h : Silent s)
    (input : ∀ i ∈ unitInputs op l s.nl.toNat u, ZeroUnit op s i) : Silent (unitOf op l s u) := by
  cases op <;> cases l <;>
    simp only [unitInputs, ZeroUnit, List.forall_mem_cons] at input
  case decode.mono =>
    simp only [Machine.unitOf, decMonoUnit, input, lo_zero, hi_zero, h.dec]
    exact (h.writeSample _).writeSample _
  case decode.stereo =>
    simp only [Machine.unitOf, decStereoUnit, input, lo_zero, hi_zero, h.dec]
    exact (h.writeSample _).writeSample _
  case decode.quad =>
    simp only [Machine.unitOf, decQuadUnit, input, lo_zero, hi_zero, h.dec]
    exact (((h.writeSample _).writeSample _).writeSample _).writeSample _
  case encode.mono =>
    simp only [Machine.unitOf, encMonoUnit, input, h.enc, pack_zero]
    exact h.writeCode _
  case encode.stereo =>
    simp only [Machine.unitOf, encStereoUnit, input, h.enc, pack_zero]
    exact h.writeCode _
  case encode.quad =>
    simp only [Machine.unitOf, encQuadUnit, input, h.enc, pack_zero]
    exact (h.writeCode _).writeCode _

theorem Silent.afterUnits {op : Op} {l : Layout} {s : State} (legal : StepTableLegal s.params.stepTable)
    (input : ∀ i < s.inLen.toNat, ZeroUnit op s i) {k : Nat} (hk : k ≤ unitCount op l s.inLen.toNat) :
    Silent (afterUnits op l s k) := by
  induction k with
  | zero => exact ⟨legal, slot_accept s op l, nofun⟩
  | succ k ih =>
    have bound := unitCount_lt op l s
    have hm := midway_afterUnits op l s k (by omega)
    have silent := (ih (by omega)).unitOf (op := op) (l := l) (u := k) fun i hi => by
      have given := input i (unitInputs_lt (by omega) i (hm.nl ▸ hi))
      cases op with
      | decode => exact (hm.readCode i).trans given
      | encode => exact (hm.readSample i).trans given
    exact ⟨silent.legal, silent.slots, silent.out⟩

/-- A byte with a defined value in a silent state is zero. -/
theorem Silent.outByte {s : State} (h : Silent s) {a : Nat} (listed : s.outListed a) : s.outByte a = 0#8 := by
  obtain ⟨b, hb, value⟩ := exists_outByte_of_outListed listed
  exact value.trans (h.out a b hb)

theorem outUnit_zero {s : State} {j : Nat}
    (bytes : ∀ a, a / 2 = j → (s.opl = .encode → a % 2 = 0) → s.outByte a = 0#8) : s.outUnit j = 0#16 := by
  have low : s.outByte (2 * j) = 0#8 := bytes _ (by omega) (by omega)
  cases h : s.opl with
  | decode =>
    have high : s.outByte (2 * j + 1) = 0#8 := bytes _ (by omega) (by simp [h])
    rw [outUnit_of_decode h, high, low]; rfl
  | encode => rw [outUnit_of_encode h, low]; rfl

/-- Settles O41, by induction on the units: a unit of zeros keeps the slots at (0, 0) and stores only zeros. -/
theorem silenceStaysSilent : Obligations.SilenceStaysSilent := by
  intro op l s h params codes samples
  have input : ∀ i < s.inLen.toNat, ZeroUnit op s i := by
    cases op with
    | decode => exact codes rfl
    | encode => exact samples rfl
  obtain ⟨legal, _, capacity⟩ := params
  have units := Silent.afterUnits (l := l) legal input le_rfl
  have silent : Silent (afterCommand op l s) := ⟨units.legal, units.slots, units.out⟩
  refine ⟨_, execTimes_command op l h, silent.slots, fun j hj => ?_⟩
  rw [outLen_afterCommand op l h capacity] at hj
  exact outUnit_zero fun a ha low => silent.outByte (outListed_of_lt_outLength hj ha low)

end Sys2Proof.Machine
end

section
/-! The command word (O1 to O3): what a word decodes to, and that it is the word of what it decodes to; the row of the opcode
map it selects. -/

namespace Sys2Proof

/-! ## Decoding and encoding are inverse (R91, R92) -/

theorem decodeWord_eq_reservedCommand_iff {w : Word} : decodeWord w = .reservedCommand ↔ reservedBitsSet w = true := by
  unfold decodeWord
  split
  case isTrue reserved => simp [reserved]
  case isFalse clean => split <;> simp [clean]

/-- A word of a legal channel count decodes to its `DEC.*` or `ENC.*` row. -/
theorem decodeWord_legal {w : Word} {l : Layout} (clean : reservedBitsSet w = false)
    (legal : channelsField w = l.channels) : decodeWord w = .instr (.ofCommand (opField w) l) := by
  simp [decodeWord, clean, layoutOfChannels_eq_some.2 legal]

/-- A word of any other channel count decodes to `UNSUPPORTED_LAYOUT`. -/
theorem decodeWord_illegal {w : Word} (clean : reservedBitsSet w = false)
    (illegal : legalChannels (channelsField w) = false) :
    decodeWord w = .instr (.unsupportedLayout (opField w) (channelsField w)) := by
  simp [decodeWord, clean, layoutOfChannels_eq_none.2 illegal]

/-- The rows of the opcode map: six by operation and layout, and one for every other channel count. -/
theorem Instr.ofCommand_or_unsupportedLayout (i : Instr) :
    (∃ op l, i = .ofCommand op l) ∨ ∃ op c, i = .unsupportedLayout op c := by
  cases i with
  | decMono => exact .inl ⟨.decode, .mono, rfl⟩
  | decStereo => exact .inl ⟨.decode, .stereo, rfl⟩
  | decQuad => exact .inl ⟨.decode, .quad, rfl⟩
  | encMono => exact .inl ⟨.encode, .mono, rfl⟩
  | encStereo => exact .inl ⟨.encode, .stereo, rfl⟩
  | encQuad => exact .inl ⟨.encode, .quad, rfl⟩
  | unsupportedLayout op c => exact .inr ⟨op, c, rfl⟩

@[simp] theorem Instr.wellFormed_ofCommand (op : Op) (l : Layout) : (Instr.ofCommand op l).wellFormed = true := by
  cases op <;> cases l <;> rfl

@[simp] theorem Instr.wellFormed_unsupportedLayout (op : Op) (c : BitVec 8) :
    (Instr.unsupportedLayout op c).wellFormed = !legalChannels c := rfl

theorem encode_unsupportedLayout (op : Op) (c : BitVec 8) : encode (.unsupportedLayout op c) = commandWord op c := rfl

theorem decodeWord_encode {i : Instr} (h : i.wellFormed = true) : decodeWord (encode i) = .instr i := by
  obtain ⟨op, l, rfl⟩ | ⟨op, c, rfl⟩ := i.ofCommand_or_unsupportedLayout
  · rw [encode_ofCommand, decodeWord_legal (reservedBitsSet_commandWord op _) (channelsField_commandWord op _),
      opField_commandWord]
  · rw [encode_unsupportedLayout, decodeWord_illegal (reservedBitsSet_commandWord op c), opField_commandWord,
      channelsField_commandWord]
    simpa [channelsField_commandWord] using h

/-- A word that is not refused is the word of a command. -/
theorem exists_encode_eq {w : Word} (clean : reservedBitsSet w = false) :
    ∃ i : Instr, i.wellFormed = true ∧ encode i = w := by
  have fields := commandWord_fields w clean
  cases h : layoutOfChannels (channelsField w) with
  | some l =>
    rw [layoutOfChannels_eq_some.1 h, ← encode_ofCommand] at fields
    exact ⟨_, Instr.wellFormed_ofCommand _ _, fields⟩
  | none => exact ⟨.unsupportedLayout _ _, by simp [layoutOfChannels_eq_none.1 h], fields⟩

theorem encode_of_decodeWord {w : Word} {i : Instr} (h : decodeWord w = .instr i) :
    i.wellFormed = true ∧ encode i = w := by
  have clean : reservedBitsSet w = false := by
    rw [Bool.eq_false_iff, ne_eq, ← decodeWord_eq_reservedCommand_iff, h]
    exact Decoded.noConfusion
  obtain ⟨j, wellFormed, rfl⟩ := exists_encode_eq clean
  rw [decodeWord_encode wellFormed, Decoded.instr.injEq] at h
  exact ⟨h ▸ wellFormed, h ▸ rfl⟩

/-- Settles O1, by the two round trips and the reserved bits as numbers. -/
theorem commandWordsAndCommandsCorrespond : Obligations.CommandWordsAndCommandsCorrespond :=
  ⟨fun _ => decodeWord_encode, fun _ _ => encode_of_decodeWord,
    fun w => decodeWord_eq_reservedCommand_iff.trans (reservedBitsSet_iff w)⟩

/-- Settles O2: each of the eight words is the encoding of the command named beside it. -/
theorem opcodeMapWordsDecode : Obligations.OpcodeMapWordsDecode :=
  ⟨decodeWord_encode (i := .decMono) rfl, decodeWord_encode (i := .decStereo) rfl,
    decodeWord_encode (i := .decQuad) rfl, decodeWord_encode (i := .encMono) rfl,
    decodeWord_encode (i := .encStereo) rfl, decodeWord_encode (i := .encQuad) rfl,
    decodeWord_encode (i := .unsupportedLayout .decode 3#8) rfl,
    decodeWord_encode (i := .unsupportedLayout .encode 255#8) rfl⟩

/-! ## The row a word selects (R92) -/

/-- The mask of the `UNSUPPORTED_LAYOUT` row keeps the two reserved fields and nothing else. -/
theorem and_reservedMask_eq_zero_iff (w : Word) : w &&& 0xFFFF00FE#32 = 0#32 ↔ reservedBitsSet w = false := by
  constructor
  · intro masked
    have field (start len : Nat) (kept : (0xFFFF00FE#32).extractLsb' start len = BitVec.allOnes len) :
        w.extractLsb' start len = 0#len := by
      calc w.extractLsb' start len
          = (w &&& 0xFFFF00FE#32).extractLsb' start len := by rw [BitVec.extractLsb'_and, kept, BitVec.and_allOnes]
        _ = 0#len := by rw [masked]; simp
    simp [reservedBitsSet, field 1 7 (by decide), field 16 16 (by decide)]
  · intro clean
    have fields (c : BitVec 8) (b : BitVec 1) :
        (0#16 ++ c ++ 0#7 ++ b) &&& (BitVec.allOnes 16 ++ 0#8 ++ BitVec.allOnes 7 ++ 0#1) = 0#(16 + 8 + 7 + 1) := by
      simp only [BitVec.and_append, BitVec.zero_and, BitVec.and_zero]
      rfl
    rw [← commandWord_fields w clean]
    exact fields (channelsField w) (opField w).bit

/-- Each of the first six rows is met by one word alone, that of a `DEC.*` or `ENC.*` command. -/
theorem commandRow_eq {r : OpcodeRow} (h : r ∈ opcodeMap.take 6) :
    r.mask = BitVec.allOnes 32 ∧ ∃ op l, r.pattern = encode (.ofCommand op l) := by
  simp only [opcodeMap, List.take, List.mem_cons, List.not_mem_nil, or_false] at h
  rcases h with rfl | rfl | rfl | rfl | rfl | rfl
  · exact ⟨rfl, .decode, .mono, rfl⟩
  · exact ⟨rfl, .decode, .stereo, rfl⟩
  · exact ⟨rfl, .decode, .quad, rfl⟩
  · exact ⟨rfl, .encode, .mono, rfl⟩
  · exact ⟨rfl, .encode, .stereo, rfl⟩
  · exact ⟨rfl, .encode, .quad, rfl⟩

theorem selectedRow_encode_ofCommand (op : Op) (l : Layout) :
    (selectedRow (encode (.ofCommand op l))).map OpcodeRow.mnemonic = some (Instr.ofCommand op l).mnemonic := by
  cases op <;> cases l <;> decide

/-- A word of none of the first six rows is left to the last one, which takes it unless it is reserved. -/
theorem selectedRow_of_ne_encode {w : Word} (h : ∀ op l, w ≠ encode (.ofCommand op l)) :
    (selectedRow w).map OpcodeRow.mnemonic = if reservedBitsSet w then none else some "UNSUPPORTED_LAYOUT" := by
  have missed : (opcodeMap.take 6).find? (fun r => w &&& r.mask == r.pattern) = none := by
    refine List.find?_eq_none.2 fun r hr => ?_
    obtain ⟨mask, op, l, pattern⟩ := commandRow_eq hr
    simpa only [mask, pattern, BitVec.and_allOnes, beq_iff_eq] using h op l
  have split : opcodeMap = opcodeMap.take 6 ++ [⟨"UNSUPPORTED_LAYOUT", 0#32, 0xFFFF00FE#32⟩] := rfl
  rw [selectedRow, split, List.find?_append, missed]
  by_cases last : w &&& 0xFFFF00FE#32 = 0#32
  · simp [last, (and_reservedMask_eq_zero_iff w).1 last]
  · simp [last, mt (and_reservedMask_eq_zero_iff w).2 last]

/-- Settles O3: the commands of the first six rows word by word, the rest by the last row. -/
theorem opcodeMapRowIsTheDecodedCommand : Obligations.OpcodeMapRowIsTheDecodedCommand := by
  intro w
  constructor
  · intro i decoded
    obtain ⟨-, rfl⟩ := encode_of_decodeWord decoded
    obtain ⟨op, l, rfl⟩ | ⟨op, c, rfl⟩ := i.ofCommand_or_unsupportedLayout
    · exact selectedRow_encode_ofCommand op l
    · have other (o : Op) (l : Layout) : encode (.unsupportedLayout op c) ≠ encode (.ofCommand o l) := by
        intro same
        rw [same, decodeWord_encode (Instr.wellFormed_ofCommand o l), Decoded.instr.injEq] at decoded
        cases o <;> cases l <;> cases decoded
      rw [selectedRow_of_ne_encode other, Laws.EncodeClean.unsupportedLayout op c]
      rfl
  · intro refused
    have other (o : Op) (l : Layout) : w ≠ encode (.ofCommand o l) := by
      rintro rfl
      rw [decodeWord_encode (Instr.wellFormed_ofCommand o l)] at refused
      cases refused
    simpa [decodeWord_eq_reservedCommand_iff.1 refused] using selectedRow_of_ne_encode other

end Sys2Proof
end

section
/-! The formats and the codec's bits (O5, O7, O13): a code and a code byte as numbers, and the encoder's accumulated magnitude
as that of the code it returns. -/

namespace Sys2Proof.Machine

/-! ## A code by its bits (R72) -/

theorem getLsbD_code (k : Code) (i : Nat) : k.getLsbD i = decide (k.toNat / 2 ^ i % 2 = 1) := by
  rw [← BitVec.testBit_toNat, Nat.testBit_eq_decide_div_mod_eq]

/-- A term that one bit of a code gates, as the product R72 writes. -/
theorem ite_bit_eq_mul (n t : Nat) : (if n % 2 = 1 then t else 0) = n % 2 * t := by
  rcases Nat.mod_two_eq_zero_or_one n with h | h <;> simp [h]

theorem mag_eq (k : Code) (step : Nat) :
    mag k step = step / 8 + k.toNat % 2 * (step / 4) + k.toNat / 2 % 2 * (step / 2) + k.toNat / 4 % 2 * step := by
  simp only [mag, getLsbD_code, decide_eq_true_eq, ite_bit_eq_mul, Nat.shiftRight_eq_div_pow, Nat.reducePow, Nat.div_one]

theorem signBit_iff (k : Code) : k.getLsbD 3 = true ↔ k.toNat ≥ 8 := by
  have := k.isLt
  rw [getLsbD_code, decide_eq_true_iff]
  omega

theorem signedDiff_eq (k : Code) (step : Nat) :
    signedDiff k step = if k.toNat ≥ 8 then -(mag k step : Int) else (mag k step : Int) := by
  simp only [signedDiff, signBit_iff]

theorem indexStep_eq (k : Code) :
    indexStep k = if k.toNat % 8 < 4 then -1 else 2 * ((k.toNat % 8 : Nat) : Int) - 6 := by
  revert k; decide

/-- Settles O5, by the three operands of a code. -/
theorem codeOperandsByBits : Obligations.CodeOperandsByBits :=
  fun k step => ⟨mag_eq k step, signedDiff_eq k step, indexStep_eq k⟩

/-! ## A code byte by its two codes (R73) -/

theorem toNat_pack (l h : Code) : (pack l h).toNat = h.toNat * 16 + l.toNat := by
  rw [pack, BitVec.toNat_append, ← Nat.shiftLeft_add_eq_or_of_lt l.isLt, Nat.shiftLeft_eq]

theorem lo_pack (l h : Code) : lo (pack l h) = l := BitVec.extractLsb'_append_eq_right

theorem hi_pack (l h : Code) : hi (pack l h) = h := BitVec.extractLsb'_append_eq_left

theorem toNat_lo (b : Byte) : (lo b).toNat = b.toNat % 16 := by
  simp [lo, BitVec.extractLsb'_toNat]

theorem toNat_hi (b : Byte) : (hi b).toNat = b.toNat / 16 := by
  have := b.isLt
  rw [hi, BitVec.extractLsb'_toNat, Nat.shiftRight_eq_div_pow]
  omega

theorem pack_lo_hi (b : Byte) : pack (lo b) (hi b) = b := by
  apply BitVec.eq_of_toNat_eq
  rw [toNat_pack, toNat_lo, toNat_hi, Nat.div_add_mod']

/-- Settles O7, by the two lanes as numbers. -/
theorem nibbleLanes : Obligations.NibbleLanes :=
  ⟨fun l h => ⟨toNat_pack l h, lo_pack l h, hi_pack l h⟩, fun b => ⟨toNat_lo b, toNat_hi b, pack_lo_hi b⟩⟩

/-! ## The encoder's magnitude (R122) -/

/-- `quantise_spec` without the tests: some sign and some bits give the code, and the same bits gate the accumulated terms. -/
theorem exists_quantise_bits (step : Nat) (delta : Int) :
    ∃ sign b2 b1 b0 : Nat, sign % 8 = 0 ∧ b2 ≤ 1 ∧ b1 ≤ 1 ∧ b0 ≤ 1 ∧
      (quantise step delta).code.toNat = sign + 4 * b2 + 2 * b1 + b0 ∧
      (quantise step delta).acc = step / 8 + b0 * (step / 4) + b1 * (step / 2) + b2 * step := by
  have bit (p : Prop) {_ : Decidable p} : (if p then 1 else 0) ≤ 1 := by split <;> decide
  have sign : (if delta < 0 then 8 else 0) % 8 = 0 := by split <;> rfl
  exact ⟨_, _, _, _, sign, bit _, bit _, bit _, quantise_spec step delta⟩

/-- What the greedy tests accumulate is the magnitude of the code they set: each test adds the term of R72 that its bit
gates. -/
theorem acc_quantise (step : Nat) (delta : Int) :
    (quantise step delta).acc = mag (quantise step delta).code step := by
  obtain ⟨sign, b2, b1, b0, hs, h2, h1, h0, code, acc⟩ := exists_quantise_bits step delta
  have bit0 : (quantise step delta).code.toNat % 2 = b0 := by omega
  have bit1 : (quantise step delta).code.toNat / 2 % 2 = b1 := by omega
  have bit2 : (quantise step delta).code.toNat / 4 % 2 = b2 := by omega
  rw [acc, mag_eq, bit0, bit1, bit2]

/-- Settles O13: both sides apply the shared update to the code the encoder returns. -/
theorem encoderAndDecoderAgree : Obligations.EncoderAndDecoderAgree :=
  fun T sl x => ⟨acc_quantise (stepSize T sl.sidx) (x.toInt - sl.pred.toInt), rfl, rfl⟩

end Sys2Proof.Machine
end

section
/-! The START (O4, O50, O52): the outcomes of a write of `CMD` at an idle core, in the order of their checks, and the step that
makes it. -/

namespace Sys2Proof.Machine

/-! ## The write of `CMD` (R91, R93, R181, R182) -/

theorem startCommand_reserved {w : Word} (s : State) (h : decodeWord w = .reservedCommand) :
    startCommand w s = .refused .reservedCommand := by
  simp only [startCommand, h]

theorem startCommand_instr {w : Word} {i : Instr} (s : State) (h : decodeWord w = .instr i) :
    startCommand w s = exec i s := by
  simp only [startCommand, h]

/-- At an idle core a write of `CMD` is a START, with the handshake opened (R180; log 22). -/
theorem hostWriteReg_cmd {s : State} (w : Word) (idle : s.busy = false) :
    hostWriteReg 0 w s = startCommand w s.openHandshake :=
  hostWriteReg_idle w (by decide) idle

/-- An input longer than the capacity is refused whatever the command (R181, R206). -/
theorem exec_inputTooLong {s : State} (i : Instr) (idle : s.busy = false)
    (long : s.params.inCapacity < s.inLen.toNat) : exec i s = .refused .inputTooLong := by
  obtain ⟨op, l, rfl⟩ | ⟨op, c, rfl⟩ := i.ofCommand_or_unsupportedLayout
  · simp [exec_ofCommand, command, idle, long]
  · simp [exec, execUnsupportedLayout, idle, long]

/-- `UNSUPPORTED_LAYOUT` completes with the error in its START step (R182). -/
theorem exec_unsupportedLayout {s : State} (op : Op) (c : BitVec 8) (h : s.startable) :
    exec (.unsupportedLayout op c) s = .next (s.raiseUnsupportedLayout op c) := by
  obtain ⟨idle, fits⟩ := h
  simp [exec, execUnsupportedLayout, idle, Nat.not_lt.2 fits]

theorem unsupportedStatus_eq : unsupportedStatus = 0x00000006#32 := by decide

theorem legalChannels_eq_false {c : BitVec 8} (h1 : c.toNat ≠ 1) (h2 : c.toNat ≠ 2) (h4 : c.toNat ≠ 4) :
    legalChannels c = false := by
  simp [legalChannels, ← BitVec.toNat_inj, h1, h2, h4]

/-- Settles O4: the decoder's outcome first, then the length, then the channel count. -/
theorem startChecksInOrder : Obligations.StartChecksInOrder := by
  intro w s idle
  rw [hostWriteReg_cmd w idle]
  refine ⟨fun reserved => ?_, fun rsv0 rsv1 => ?_⟩
  · exact startCommand_reserved _ (decodeWord_eq_reservedCommand_iff.2 ((reservedBitsSet_iff w).2 reserved))
  have clean : reservedBitsSet w = false := by
    rw [Bool.eq_false_iff, ne_eq, reservedBitsSet_iff]
    omega
  refine ⟨fun long => ?_, fun fits => ⟨fun op l word => ?_, fun not1 not2 not4 => ?_⟩⟩
  · obtain ⟨i, wellFormed, rfl⟩ := exists_encode_eq clean
    rw [startCommand_instr _ (decodeWord_encode wellFormed)]
    exact exec_inputTooLong i idle long
  · obtain rfl : encode (.ofCommand op l) = w := by
      apply BitVec.eq_of_toNat_eq
      rw [encode_ofCommand, commandWord_toNat, channels_toNat, word]
    rw [startCommand_instr _ (decodeWord_encode (Instr.wellFormed_ofCommand op l))]
    exact ⟨exec_startable op l ⟨idle, fits⟩, rfl⟩
  · have illegal : legalChannels (channelsField w) = false := by
      apply legalChannels_eq_false <;> rw [channelsField_toNat] <;> omega
    have fits : s.openHandshake.startable := ⟨idle, fits⟩
    rw [startCommand_instr _ (decodeWord_illegal clean illegal), exec_unsupportedLayout _ _ fits,
      State.raiseUnsupportedLayout, encode_unsupportedLayout, commandWord_fields w clean, unsupportedStatus_eq]
    rfl

/-! ## The step that makes it (R180; log 9, log 10) -/

/-- A step of the host at a write of `CMD`, at an idle core. -/
theorem step_writeCmd {s : State} {w : Word} (host : s.nextAgent = .host) (idle : s.busy = false)
    (writes : s.hostOp = some (.wreg 0 w)) :
    step s = startCommand w s.takeTurn.advanceHost.openHandshake :=
  (step_of_hostOp host writes).trans (hostWriteReg_cmd w idle)

/-- Settles O50: the START of a word that decodes to a command is `exec` of it. -/
theorem stepRunsTheWrittenCommand : Obligations.StepRunsTheWrittenCommand := by
  intro s w i host idle writes decoded
  rw [step_writeCmd host idle writes, startCommand_instr _ decoded]
  rfl

theorem withFetchWord_toNat (s : State) (w : Word) : s.withFetchWord 32 w.toNat = s.withCommandWord w := by
  rw [State.withFetchWord, Nat.mod_eq_of_lt w.isLt, BitVec.ofNat_toNat, BitVec.setWidth_eq]

@[simp] theorem busy_withCommandWord (s : State) (w : Word) : (s.withCommandWord w).busy = false := by
  simp [State.busy, State.withCommandWord]

/-- Settles O52: placing a word leaves the host at its write, with the turn, at an idle core. -/
theorem fetchWordIsTheNextCommand : Obligations.FetchWordIsTheNextCommand := by
  intro s w
  rw [withFetchWord_toNat]
  refine ⟨busy_withCommandWord s w, ?_⟩
  rw [step_writeCmd rfl (busy_withCommandWord s w) rfl]
  cases decoded : decodeWord w with
  | reservedCommand => exact startCommand_reserved _ decoded
  | instr i => exact startCommand_instr _ decoded

end Sys2Proof.Machine
end

section
/-! The tables (O6, O8): the index deltas by the selector they are looked up with, and the step table after reset. -/

namespace Sys2Proof.Machine

/-! ## The index deltas (R103, R104) -/

/-- The selector is the code's low three bits, which a flip of bit 3 leaves alone (R71). -/
theorem selector_xor_signBit (k : Code) : selector (k ^^^ 8#4) = selector k := by
  have noSelectorBits : (8#4).extractLsb' 0 3 = 0#3 := by decide
  rw [selector, selector, BitVec.extractLsb'_xor, noSelectorBits, BitVec.xor_zero]

theorem indexStep_xor_signBit (k : Code) : indexStep (k ^^^ 8#4) = indexStep k := by
  simp only [indexStep, selector_xor_signBit]

theorem indexDelta_values (i : Fin 8) : Config.indexDelta[i] = -1 ∨ Config.indexDelta[i] = 2 ∨
    Config.indexDelta[i] = 4 ∨ Config.indexDelta[i] = 6 ∨ Config.indexDelta[i] = 8 := by
  revert i; decide

/-- Settles O6: the eight deltas are looked up, and a code's delta is the table's entry at its selector. -/
theorem indexDeltaIgnoresSign : Obligations.IndexDeltaIgnoresSign :=
  ⟨by decide, fun k => ⟨(indexStep_xor_signBit k).symm, indexDelta_values (selector k)⟩⟩

/-! ## The tables after reset (R101, R102) -/

/-- Settles O8: the parameters after reset are the configuration's, which are legal, and the entries are looked up. -/
theorem tablesAfterReset : Obligations.TablesAfterReset := by
  obtain ⟨tableLegal, -⟩ := paramsLegal_config
  exact ⟨rfl, tableLegal, by decide, by decide, by decide, by decide, by decide, paramsLegal_config⟩

end Sys2Proof.Machine
end

section
/-! The sample codec on one slot (O9 to O12, O14, O15): the shared update as clamped exact sums, the widths it needs, and the
encoder's code as a sign bit and a greedy selector of the residual's magnitude. -/

namespace Sys2Proof.Machine

variable {T : StepTable}

/-! ## The shared update (R112) -/

theorem toInt_pred_update (T : StepTable) (sl : Slot) (k : Code) :
    (update T sl k).pred.toInt = clamp (sl.pred.toInt + diff T sl k) (-32768) 32767 := by
  obtain ⟨low, high⟩ := clamp_bounds (sl.pred.toInt + diff T sl k) (lo := -32768) (hi := 32767) (by decide)
  exact toInt_samplePattern low high

theorem val_clampIndex (x : Int) : ((clampIndex x).val : Int) = clamp x 0 88 :=
  Int.toNat_of_nonneg (clamp_bounds x (by decide)).1

/-- Settles O9: the stored patterns stand for the clamped sums. -/
theorem updateStoresClampedExactSums : Obligations.UpdateStoresClampedExactSums :=
  fun T sl k => ⟨toInt_pred_update T sl k, val_clampIndex (sl.sidx.val + indexStep k)⟩

/-! ## Widths (R131) -/

/-- The magnitude at any step up to a bound: `mag_le` does not fall as the step grows. -/
theorem mag_le_of_step_le (k : Code) {step bound : Nat} (h : step ≤ bound) :
    mag k step ≤ bound / 8 + bound / 4 + bound / 2 + bound :=
  (mag_le k step).trans (by omega)

/-- The reconstructed difference is at most the magnitude, on either side. -/
theorem diff_bounds (T : StepTable) (sl : Slot) (k : Code) :
    -(mag k (stepSize T sl.sidx) : Int) ≤ diff T sl k ∧ diff T sl k ≤ mag k (stepSize T sl.sidx) := by
  unfold diff signedDiff
  split <;> omega

theorem stepSize_default_le (i : Fin 89) : stepSize Config.defaultStepTable i ≤ 32767 := by
  revert i; decide

/-- Settles O10: each bound follows from that of the step, of a sample or of the index delta. -/
theorem datapathWidths : Obligations.DatapathWidths := by
  intro sl k x
  obtain ⟨predLow, predHigh⟩ := sample_bounds sl.pred
  obtain ⟨xLow, xHigh⟩ := sample_bounds x
  obtain ⟨deltaLow, deltaHigh⟩ := indexStep_bounds k
  have index := sl.sidx.isLt
  refine ⟨fun T => ?_, by omega, by omega, by omega, by omega, ?_⟩
  · have step := stepSize_le T sl.sidx
    have magnitude := mag_le_of_step_le k step
    obtain ⟨diffLow, diffHigh⟩ := diff_bounds T sl k
    omega
  · have magnitude := mag_le_of_step_le k (stepSize_default_le sl.sidx)
    obtain ⟨diffLow, diffHigh⟩ := diff_bounds Config.defaultStepTable sl k
    omega

/-! ## The corner cases of `DECODE_SAMPLE` (R114) -/

theorem indexStep_of_lt_four {k : Code} (h : k.toNat % 8 < 4) : indexStep k = -1 := by
  rw [indexStep_eq, if_pos h]

/-- A difference of 0 leaves the prediction. -/
theorem pred_update_of_diff_zero {sl : Slot} {k : Code} (h : diff T sl k = 0) : (update T sl k).pred = sl.pred := by
  obtain ⟨low, high⟩ := sample_bounds sl.pred
  rw [← BitVec.toInt_inj, toInt_pred_update, h, clamp]
  omega

/-- Code 8 at index 0 of the default table, where `7 / 8` is 0, changes nothing. -/
theorem update_negativeZero (p : Sample) : update Config.defaultStepTable ⟨p, 0⟩ 0x8#4 = ⟨p, 0⟩ := by
  have noDiff : diff Config.defaultStepTable ⟨p, 0⟩ 0x8#4 = 0 :=
    show signedDiff 0x8#4 (stepSize Config.defaultStepTable 0) = 0 by decide
  have sameIndex : (update Config.defaultStepTable ⟨p, 0⟩ 0x8#4).sidx = 0 :=
    show clampIndex (0 + indexStep 0x8#4) = 0 by decide
  calc update Config.defaultStepTable ⟨p, 0⟩ 0x8#4
      = ⟨(update Config.defaultStepTable ⟨p, 0⟩ 0x8#4).pred, (update Config.defaultStepTable ⟨p, 0⟩ 0x8#4).sidx⟩ := rfl
    _ = ⟨p, 0⟩ := by rw [pred_update_of_diff_zero noDiff, sameIndex]

/-- Settles O11: the closed cases are computed; the index does not depend on the prediction, and code 8 at index 0 adds 0. -/
theorem decodeCornerCases : Obligations.DecodeCornerCases := by
  refine ⟨by decide, by decide, fun p => ?_, fun p k small => ?_, fun p => ?_, by decide, by decide, by decide⟩
  · change clampIndex (87 + indexStep 0x4#4) = 88
    decide
  · change clampIndex (0 + indexStep k) = 0
    rw [indexStep_of_lt_four small]
    decide
  · rw [decodeSample, update_negativeZero]

/-! ## The code `ENCODE_SAMPLE` returns (R120, R121) -/

/-- Settles O12: the code is that of the greedy tests on the exact residual. -/
theorem encoderBitTests : Obligations.EncoderBitTests :=
  fun T sl x => ⟨(quantise_spec (stepSize T sl.sidx) (x.toInt - sl.pred.toInt)).1, rfl⟩

/-- Bits 2:0 of the code: the greedy tests of R120 on a residual of magnitude `d`. -/
def greedySelector (step d : Nat) : Nat :=
  let b2 := if d ≥ step then 1 else 0
  let b1 := if d - b2 * step ≥ step / 2 then 1 else 0
  let b0 := if d - b2 * step - b1 * (step / 2) ≥ step / 4 then 1 else 0
  4 * b2 + 2 * b1 + b0

/-- The code is a sign bit and a selector that depends on the residual's magnitude alone. -/
theorem toNat_encodeSample (T : StepTable) (sl : Slot) (x : Sample) :
    (encodeSample T sl x).1.toNat =
      (if x.toInt - sl.pred.toInt < 0 then 8 else 0) +
        greedySelector (stepSize T sl.sidx) (x.toInt - sl.pred.toInt).natAbs := by
  simp only [greedySelector, ← Nat.add_assoc]
  exact (quantise_spec (stepSize T sl.sidx) (x.toInt - sl.pred.toInt)).1

theorem greedySelector_lt (step d : Nat) : greedySelector step d < 8 := by
  unfold greedySelector
  dsimp only
  split_ifs <;> decide

/-- A residual below every threshold matches none of the tests. -/
theorem greedySelector_eq_zero {step d : Nat} (h : d < step / 4) : greedySelector step d = 0 := by
  have test2 : ¬ d ≥ step := by omega
  have test1 : ¬ d ≥ step / 2 := by omega
  simp [greedySelector, test2, test1, h]

/-- A residual of at least the three thresholds together matches every test. -/
theorem greedySelector_eq_seven {step d : Nat} (h : step + step / 2 + step / 4 ≤ d) : greedySelector step d = 7 := by
  have test2 : d ≥ step := by omega
  have test1 : d - step ≥ step / 2 := by omega
  have test0 : d - step - step / 2 ≥ step / 4 := by omega
  simp [greedySelector, test2, test1, test0]

theorem toNat_mod_encodeSample (T : StepTable) (sl : Slot) (x : Sample) :
    (encodeSample T sl x).1.toNat % 8 = greedySelector (stepSize T sl.sidx) (x.toInt - sl.pred.toInt).natAbs := by
  have small := greedySelector_lt (stepSize T sl.sidx) (x.toInt - sl.pred.toInt).natAbs
  rw [toNat_encodeSample]
  split <;> omega

/-- Bit 3 is the sign of the residual. -/
theorem signBit_encodeSample (T : StepTable) (sl : Slot) (x : Sample) :
    (encodeSample T sl x).1.getLsbD 3 = true ↔ x.toInt - sl.pred.toInt < 0 := by
  have small := greedySelector_lt (stepSize T sl.sidx) (x.toInt - sl.pred.toInt).natAbs
  rw [signBit_iff, toNat_encodeSample]
  split <;> omega

/-! ## The smallest thresholds (R102) -/

/-- A legal table rises from 7, so no step is below 7. -/
theorem seven_le_stepSize (legal : StepTableLegal T) (i : Fin 89) : 7 ≤ stepSize T i := by
  obtain ⟨first, rising⟩ := legal
  obtain ⟨i, hi⟩ := i
  induction i with
  | zero => exact (congrArg BitVec.toNat first).ge
  | succ i ih => exact (ih (by omega)).trans (BitVec.lt_def.1 (rising ⟨i, by omega⟩)).le

/-- At the prediction the code is 0: the smallest threshold of a legal table is 1. -/
theorem encodeSample_at_pred {sl : Slot} {x : Sample} (legal : StepTableLegal T) (h : x.toInt - sl.pred.toInt = 0) :
    (encodeSample T sl x).1 = 0#4 := by
  have step := seven_le_stepSize legal sl.sidx
  apply BitVec.eq_of_toNat_eq
  rw [toNat_encodeSample, h, greedySelector_eq_zero (by omega)]
  rfl

/-- Settles O15: the selector is 0 below the smallest threshold and 7 from the sum of all three. -/
theorem encoderResidualExtremes : Obligations.EncoderResidualExtremes := by
  intro T sl x legal
  refine ⟨fun same => encodeSample_at_pred legal (by rw [same, sub_self]), fun residual step => ?_, fun large => ?_⟩
  · apply BitVec.eq_of_toNat_eq
    rw [toNat_encodeSample, residual, greedySelector_eq_zero (by omega)]
    rfl
  · rw [toNat_mod_encodeSample, greedySelector_eq_seven large]

/-! ## Mirrored states (R124) -/

theorem toNat_selectorBits (k : Code) : (k.extractLsb' 0 3).toNat = k.toNat % 8 := by
  simp [BitVec.extractLsb'_toNat]

/-- Settles O14: mirroring negates the residual, so it keeps its magnitude, and its sign changes unless it is 0. -/
theorem encoderSignSymmetry : Obligations.EncoderSignSymmetry := by
  intro T sl sl' x x' legal pred sidx sample
  have mirrored : x'.toInt - sl'.pred.toInt = -(x.toInt - sl.pred.toInt) := by omega
  have atPred : x = sl.pred ↔ x.toInt - sl.pred.toInt = 0 := by rw [← BitVec.toInt_inj, sub_eq_zero]
  refine ⟨?_, ?_, fun same => ⟨?_, ?_⟩⟩
  · apply BitVec.eq_of_toNat_eq
    rw [toNat_selectorBits, toNat_selectorBits, toNat_mod_encodeSample, toNat_mod_encodeSample, mirrored, Int.natAbs_neg,
      sidx]
  · rw [ne_eq, Bool.eq_iff_iff, signBit_encodeSample, signBit_encodeSample, mirrored, ne_eq, atPred]
    omega
  · exact encodeSample_at_pred legal (atPred.1 same)
  · exact encodeSample_at_pred legal (by rw [mirrored, atPred.1 same, neg_zero])

end Sys2Proof.Machine
end

section
/-! What a unit does to one channel (for O38 to O40): where a code of the channel lies in a code stream, that each output unit is
stored by one unit, and what a unit leaves in one slot and writes from it. -/

namespace Sys2Proof.Machine

/-! ## Groups in a unit -/

/-- How many codes or samples of one slot a unit takes: two for mono, where both are slot 0's (R144, R151). -/
def groupsPerUnit : Layout → Nat
  | .mono => 2
  | .stereo => 1
  | .quad => 1

theorem groupsPerUnit_of_ne_mono {l : Layout} (h : l ≠ .mono) : groupsPerUnit l = 1 := by
  cases l with
  | mono => exact absurd rfl h
  | stereo | quad => rfl

theorem outPerUnit_decode (l : Layout) : outPerUnit .decode l = channelCount l * groupsPerUnit l := by
  cases l <;> rfl

/-! ## Where a code lies in a code stream (R144 to R147) -/

/-- The byte that holds the `g`-th code of slot `c`, in the geometry of an operation on `n` input units. -/
def codeByteIndex (op : Op) (l : Layout) (n c g : Nat) : Nat :=
  match l with
  | .mono => g / 2
  | .stereo => g
  | .quad => if c < 2 then lrIndex g else clIndex op n g

/-- The half of that byte that is the code: by the order in time for mono, by the channel for stereo and quad. -/
def codeNibble (l : Layout) (c g : Nat) (b : Byte) : Code :=
  match l with
  | .mono => if g % 2 = 0 then lo b else hi b
  | .stereo | .quad => if c % 2 = 0 then lo b else hi b

theorem codeNibble_of_ne_mono {l : Layout} (h : l ≠ .mono) (c g : Nat) (b : Byte) :
    codeNibble l c g b = if c % 2 = 0 then lo b else hi b := by
  cases l with
  | mono => exact absurd rfl h
  | stereo | quad => rfl

theorem codeAt_eq_codeNibble {l : Layout} {c : Nat} (bytes : Nat → Byte) (n g : Nat) (hc : c < channelCount l) :
    codeAt l bytes n c g = codeNibble l c g (bytes (codeByteIndex .decode l n c g)) := by
  cases l <;> simp only [channelCount] at hc <;> interval_cases c <;> rfl

/-- The byte of a code is stored by the unit that makes the code. -/
theorem storesUnit_codeByteIndex (l : Layout) (n c g : Nat) :
    StoresUnit .encode l n (g / groupsPerUnit l) (codeByteIndex .encode l n c g) := by
  cases l with
  | mono => rfl
  | stereo => exact (Nat.div_one g).symm
  | quad =>
    rw [codeByteIndex, groupsPerUnit, Nat.div_one]
    split
    · exact .inl rfl
    · exact .inr rfl

/-! ## Each output unit is stored by one unit (R147) -/

/-- An (L, R) byte is not a (C, LFE) byte: in its block it stands before the half, the other one from the half on. -/
theorem lrIndex_ne_clIndex {op : Op} {n g g' : Nat} (hg : g < unitCount op .quad n) :
    lrIndex g ≠ clIndex op n g' := by
  obtain ⟨hU, tail⟩ := unitCount_quad op n
  intro same
  unfold lrIndex clIndex at same
  rcases halfLength_cases op n (g' / 8192) with ⟨block, half⟩ | ⟨block, half⟩ <;> omega

theorem lrIndex_injective : Function.Injective lrIndex := by
  intro g g' same
  unfold lrIndex at same
  omega

theorem clIndex_inj {op : Op} {n g g' : Nat} (hg : g < unitCount op .quad n) (hg' : g' < unitCount op .quad n)
    (same : clIndex op n g = clIndex op n g') : g = g' := by
  obtain ⟨hU, tail⟩ := unitCount_quad op n
  unfold clIndex at same
  rcases halfLength_cases op n (g / 8192) with ⟨block, half⟩ | ⟨block, half⟩ <;>
    rcases halfLength_cases op n (g' / 8192) with ⟨block', half'⟩ | ⟨block', half'⟩ <;> omega

theorem storesUnit_unique {op : Op} {l : Layout} {n u u' j : Nat} (hu : u < unitCount op l n)
    (hu' : u' < unitCount op l n) (h : StoresUnit op l n u j) (h' : StoresUnit op l n u' j) : u = u' := by
  cases op with
  | decode => exact h.symm.trans h'
  | encode =>
    cases l with
    | mono | stereo => exact h.symm.trans h'
    | quad =>
      rcases h with rfl | rfl <;> rcases h' with same | same
      · exact lrIndex_injective same
      · exact absurd same (lrIndex_ne_clIndex hu)
      · exact absurd same.symm (lrIndex_ne_clIndex hu')
      · exact clIndex_inj hu hu' same

/-- A sample stored leaves the bytes of every other cell. -/
theorem outByte_writeSample_of_ne (s : State) {j a : Nat} (v : Sample) (h : a / 2 ≠ j) :
    (s.writeSample j v).outByte a = s.outByte a := by
  rw [outByte_writeSample, if_neg (by omega), if_neg (by omega)]

/-- A code byte stored leaves the bytes of every other cell. -/
theorem outByte_writeCode_of_ne (s : State) {j a : Nat} (b : Byte) (h : a / 2 ≠ j) :
    (s.writeCode j b).outByte a = s.outByte a := by
  rw [outByte_writeCode, if_neg (by omega)]

/-- A unit leaves every byte of `OUT` it does not store to (R52). -/
theorem outByte_unitOf_of_not_stores {op : Op} {l : Layout} {s : State} {u a : Nat}
    (h : ¬ StoresUnit op l s.nl.toNat u (a / 2)) : (unitOf op l s u).outByte a = s.outByte a := by
  cases op <;> cases l <;> simp only [StoresUnit, outPerUnit, not_or] at h <;>
    simp (disch := omega) only [unitOf, decMonoUnit, decStereoUnit, decQuadUnit, encMonoUnit, encStereoUnit, encQuadUnit,
      State.dec, State.enc, outByte_writeSample_of_ne, outByte_writeCode_of_ne, outByte_setSlot]

theorem outCell_unitOf_of_not_stores {op : Op} {l : Layout} {s : State} {u j : Nat}
    (h : ¬ StoresUnit op l s.nl.toNat u j) : (unitOf op l s u).outCell j = s.outCell j := by
  rw [State.outCell, State.outCell, outByte_unitOf_of_not_stores (by rwa [show (2 * j + 1) / 2 = j by omega]),
    outByte_unitOf_of_not_stores (by rwa [Nat.mul_div_cancel_left j two_pos])]

/-! ## One unit on one slot (R144, R145, R148, R151, R152, R154) -/

/-- A slot that no channel of the layout uses is left alone. -/
theorem slot_unitOf_of_unused (op : Op) {l : Layout} (s : State) (u : Nat) {c : Fin 4} (hc : channelCount l ≤ c.val) :
    (unitOf op l s u).slot c = s.slot c := by
  have other {d : Fin 4} (hd : d.val < channelCount l) : c ≠ d := fun same => by omega
  cases l with
  | mono =>
    have ne0 : c ≠ 0 := other (by decide)
    cases op <;> simp [unitOf, decMonoUnit, encMonoUnit, State.dec, State.enc, slot_setSlot, ne0]
  | stereo =>
    have ne0 : c ≠ 0 := other (by decide)
    have ne1 : c ≠ 1 := other (by decide)
    cases op <;> simp [unitOf, decStereoUnit, encStereoUnit, State.dec, State.enc, slot_setSlot, ne0, ne1]
  | quad => exact absurd c.isLt (Nat.not_lt.2 hc)

section
variable {l : Layout} {c : Fin 4} (s : State) (u : Nat)

/-- A unit of stereo or quad DECODE updates each slot with its own code. -/
theorem slot_unitOf_decode (hl : l ≠ .mono) (hc : c.val < channelCount l) :
    (unitOf .decode l s u).slot c = update s.params.stepTable (s.slot c) (codeAt l s.readCode s.nl.toNat c u) := by
  cases l with
  | mono => exact absurd rfl hl
  | stereo =>
    match c with
    | 0 | 1 => simp [unitOf, decStereoUnit, State.dec, decodeSample, slot_setSlot, codeAt]
  | quad =>
    match c with
    | 0 | 1 | 2 | 3 => simp [unitOf, decQuadUnit, State.dec, decodeSample, slot_setSlot, codeAt]

/-- It writes the new `PRED` of each slot to that slot's place in the group (R157). -/
theorem outCell_unitOf_decode (hl : l ≠ .mono) (hc : c.val < channelCount l) :
    (unitOf .decode l s u).outCell (channelCount l * u + c) = ((unitOf .decode l s u).slot c).pred := by
  cases l with
  | mono => exact absurd rfl hl
  | stereo =>
    match c with
    | 0 | 1 => simp [unitOf, decStereoUnit, State.dec, decodeSample, slot_setSlot, outCell_writeSample, channelCount]
  | quad =>
    match c with
    | 0 | 1 | 2 | 3 =>
      simp [unitOf, decQuadUnit, State.dec, decodeSample, slot_setSlot, outCell_writeSample, channelCount]

/-- A unit of mono DECODE updates slot 0 with the low code of its byte and then with the high one. -/
theorem slot_unitOf_decode_mono :
    (unitOf .decode .mono s u).slot 0 =
      update s.params.stepTable (update s.params.stepTable (s.slot 0) (lo (s.readCode u))) (hi (s.readCode u)) := by
  simp [unitOf, decMonoUnit, State.dec, decodeSample]

theorem outCell_unitOf_decode_mono :
    (unitOf .decode .mono s u).outCell (2 * u) = (update s.params.stepTable (s.slot 0) (lo (s.readCode u))).pred ∧
    (unitOf .decode .mono s u).outCell (2 * u + 1) = ((unitOf .decode .mono s u).slot 0).pred := by
  simp [unitOf, decMonoUnit, State.dec, decodeSample, outCell_writeSample]

/-- A unit of stereo or quad ENCODE takes each slot through its own sample. -/
theorem slot_unitOf_encode (hl : l ≠ .mono) (hc : c.val < channelCount l) :
    (unitOf .encode l s u).slot c = (encodeSample s.params.stepTable (s.slot c) (sampleAt l s.readSample c u)).2 := by
  cases l with
  | mono => exact absurd rfl hl
  | stereo =>
    match c with
    | 0 | 1 => simp [unitOf, encStereoUnit, State.enc, slot_setSlot, sampleAt, channelCount]
  | quad =>
    match c with
    | 0 | 1 | 2 | 3 => simp [unitOf, encQuadUnit, State.enc, slot_setSlot, sampleAt, channelCount]

/-- It stores each slot's code in that slot's nibble. -/
theorem codeNibble_unitOf_encode (hl : l ≠ .mono) (hc : c.val < channelCount l)
    (hu : u < unitCount .encode l s.nl.toNat) :
    codeNibble l c u ((unitOf .encode l s u).outByte (2 * codeByteIndex .encode l s.nl.toNat c u)) =
      encodeCode s.params.stepTable (s.slot c) (sampleAt l s.readSample c u) := by
  cases l with
  | mono => exact absurd rfl hl
  | stereo =>
    match c with
    | 0 | 1 =>
      simp [unitOf, encStereoUnit, State.enc, encodeSample, slot_setSlot, sampleAt, channelCount, codeNibble, codeByteIndex,
        outByte_writeCode, lo_pack, hi_pack]
  | quad =>
    have apart : lrIndex u ≠ clIndex .encode s.nl.toNat u := lrIndex_ne_clIndex hu
    match c with
    | 0 | 1 | 2 | 3 =>
      simp [unitOf, encQuadUnit, State.enc, encodeSample, slot_setSlot, sampleAt, channelCount, codeNibble, codeByteIndex,
        outByte_writeCode, lo_pack, hi_pack, apart]

/-- A unit of mono ENCODE takes slot 0 through two samples. -/
theorem slot_unitOf_encode_mono :
    (unitOf .encode .mono s u).slot 0 =
      (encodeSample s.params.stepTable (encodeSample s.params.stepTable (s.slot 0) (s.readSample (2 * u))).2
        (s.readSample (2 * u + 1))).2 := by
  simp [unitOf, encMonoUnit, State.enc]

theorem outByte_unitOf_encode_mono :
    (unitOf .encode .mono s u).outByte (2 * u) =
      pack (encodeCode s.params.stepTable (s.slot 0) (s.readSample (2 * u)))
        (encodeCode s.params.stepTable (encodeSample s.params.stepTable (s.slot 0) (s.readSample (2 * u))).2
          (s.readSample (2 * u + 1))) := by
  simp [unitOf, encMonoUnit, State.enc, encodeSample, outByte_writeCode]

end

end Sys2Proof.Machine
end

section
/-! Channel streams (O38, O39): along the units of a command every slot follows the codes or the samples of its own channel
(R161). -/

namespace Sys2Proof.Machine

/-! ## A stream depends on its own codes or samples -/

theorem decodedSlot_congr {T : StepTable} {codes codes' : Nat → Code} {m : Nat} (h : ∀ g < m, codes g = codes' g) :
    decodedSlot T codes m = decodedSlot T codes' m := by
  induction m with
  | zero => rfl
  | succ m ih => rw [decodedSlot, decodedSlot, ih fun g hg => h g (by omega), h m (by omega)]

theorem encodedSlot_congr {T : StepTable} {xs xs' : Nat → Sample} {m : Nat} (h : ∀ g < m, xs g = xs' g) :
    encodedSlot T xs m = encodedSlot T xs' m := by
  induction m with
  | zero => rfl
  | succ m ih => rw [encodedSlot, encodedSlot, ih fun g hg => h g (by omega), h m (by omega)]

theorem encodedCode_congr {T : StepTable} {xs xs' : Nat → Sample} {g : Nat} (h : ∀ i ≤ g, xs i = xs' i) :
    encodedCode T xs g = encodedCode T xs' g := by
  rw [encodedCode, encodedCode, encodedSlot_congr fun i hi => h i hi.le, h g le_rfl]

/-! ## A stream along the units of DECODE -/

theorem codeAt_mono_even (bytes : Nat → Byte) (n c u : Nat) : codeAt .mono bytes n c (2 * u) = lo (bytes u) := by
  simp [codeAt]

theorem codeAt_mono_odd (bytes : Nat → Byte) (n c u : Nat) : codeAt .mono bytes n c (2 * u + 1) = hi (bytes u) := by
  have odd : (2 * u + 1) % 2 = 1 := by omega
  have half : (2 * u + 1) / 2 = u := by omega
  simp [codeAt, odd, half]

/-- Slot `c` and the samples written from it, after `k` units of a DECODE, are those of its code stream. -/
structure DecodesStream (l : Layout) (T : StepTable) (codes : Nat → Code) (c : Fin 4) (k : Nat) (t : State) : Prop where
  slot : t.slot c = decodedSlot T codes (groupsPerUnit l * k)
  cells : ∀ g < groupsPerUnit l * k, t.outCell (channelCount l * g + c) = (decodedSlot T codes (g + 1)).pred

/-- The groups of the first `u` units are not written again by unit `u`. -/
theorem not_storesUnit_earlierGroup {l : Layout} {n u g c : Nat} (hc : c < channelCount l) (hg : g < groupsPerUnit l * u) :
    ¬ StoresUnit .decode l n u (channelCount l * g + c) := by
  cases l <;> simp only [channelCount, groupsPerUnit, StoresUnit, outPerUnit] at hc hg ⊢ <;> omega

section
variable {l : Layout} {T : StepTable} {codes : Nat → Code} {c : Fin 4} {u g : Nat} {t : State}

theorem DecodesStream.cells_unitOf (h : DecodesStream l T codes c u t) (hc : c.val < channelCount l)
    (hg : g < groupsPerUnit l * u) :
    (unitOf .decode l t u).outCell (channelCount l * g + c) = (decodedSlot T codes (g + 1)).pred :=
  (outCell_unitOf_of_not_stores (not_storesUnit_earlierGroup hc hg)).trans (h.cells g hg)

/-- A mono unit adds the two codes of its byte to the stream. -/
theorem DecodesStream.unitOf_mono (h : DecodesStream .mono T codes 0 u t) (table : t.params.stepTable = T)
    (input : codeAt .mono t.readCode t.nl.toNat 0 = codes) :
    DecodesStream .mono T codes 0 (u + 1) (unitOf .decode .mono t u) := by
  have low : codes (2 * u) = lo (t.readCode u) := input ▸ codeAt_mono_even _ _ _ u
  have high : codes (2 * u + 1) = hi (t.readCode u) := input ▸ codeAt_mono_odd _ _ _ u
  have slot : t.slot 0 = decodedSlot T codes (2 * u) := h.slot
  have first : update T (t.slot 0) (lo (t.readCode u)) = decodedSlot T codes (2 * u + 1) := by
    rw [decodedSlot, slot, low]
  have second : (unitOf .decode .mono t u).slot 0 = decodedSlot T codes (2 * u + 2) := by
    rw [slot_unitOf_decode_mono, table, first, ← high, ← decodedSlot]
  obtain ⟨cell0, cell1⟩ := outCell_unitOf_decode_mono t u
  rw [table, first] at cell0
  rw [second] at cell1
  refine ⟨second, fun g hg => ?_⟩
  obtain old | rfl | rfl : g < 2 * u ∨ g = 2 * u ∨ g = 2 * u + 1 := by
    simp only [groupsPerUnit] at hg; omega
  · exact h.cells_unitOf (by decide) old
  · simpa [channelCount] using cell0
  · simpa [channelCount] using cell1

/-- A unit adds the codes it takes to the stream of its slot. -/
theorem DecodesStream.unitOf (h : DecodesStream l T codes c u t) (hc : c.val < channelCount l)
    (table : t.params.stepTable = T) (input : codeAt l t.readCode t.nl.toNat c = codes) :
    DecodesStream l T codes c (u + 1) (unitOf .decode l t u) := by
  by_cases hl : l = .mono
  · subst hl
    obtain rfl : c = 0 := Fin.ext (Nat.lt_one_iff.1 hc)
    exact h.unitOf_mono table input
  · have per := groupsPerUnit_of_ne_mono hl
    have slot := slot_unitOf_decode t u hl hc
    rw [h.slot, table, input, per, one_mul, ← decodedSlot] at slot
    refine ⟨by rw [slot, per, one_mul], fun g hg => ?_⟩
    obtain old | rfl : g < groupsPerUnit l * u ∨ g = u := by rw [per] at hg ⊢; omega
    · exact h.cells_unitOf hc old
    · rw [outCell_unitOf_decode t g hl hc, slot]

end

theorem Midway.codeAt_eq {op : Op} {l : Layout} {s t : State} {k : Nat} (h : Midway op l s k t) (c : Nat) :
    codeAt l t.readCode t.nl.toNat c = codeAt l s.readCode s.inLen.toNat c := by
  rw [funext h.readCode, h.nl]

theorem decodesStream_afterUnits {l : Layout} {c : Fin 4} (s : State) {k : Nat} (hc : c.val < channelCount l)
    (hk : k ≤ unitCount .decode l s.inLen.toNat) :
    DecodesStream l s.params.stepTable (codeAt l s.readCode s.inLen.toNat c) c k (afterUnits .decode l s k) := by
  induction k with
  | zero => exact ⟨slot_accept s .decode l c, fun g hg => absurd hg (Nat.not_lt_zero g)⟩
  | succ k ih =>
    have hm := midway_afterUnits .decode l s k (by have := unitCount_lt .decode l s; omega)
    obtain ⟨slot, cells⟩ := (ih (by omega)).unitOf hc (congrArg Params.stepTable hm.params) (hm.codeAt_eq c)
    exact ⟨slot, cells⟩

/-! ## A stream along the units of ENCODE -/

theorem codeNibble_mono_even (c u : Nat) (b : Byte) : codeNibble .mono c (2 * u) b = lo b := by
  simp [codeNibble]

theorem codeNibble_mono_odd (c u : Nat) (b : Byte) : codeNibble .mono c (2 * u + 1) b = hi b := by
  have odd : (2 * u + 1) % 2 = 1 := by omega
  simp [codeNibble, odd]

/-- Slot `c` and the nibbles stored from it, after `k` units of an ENCODE on `n` samples, are those of its sample stream. -/
structure EncodesStream (l : Layout) (T : StepTable) (xs : Nat → Sample) (n : Nat) (c : Fin 4) (k : Nat) (t : State) :
    Prop where
  slot : t.slot c = encodedSlot T xs (groupsPerUnit l * k)
  nibbles : ∀ g < groupsPerUnit l * k,
    codeNibble l c g (t.outByte (2 * codeByteIndex .encode l n c g)) = encodedCode T xs g

/-- The bytes of the first `u` units are not written again by unit `u`. -/
theorem not_storesUnit_earlierByte {l : Layout} {n u g : Nat} (c : Nat) (hu : u < unitCount .encode l n)
    (hg : g < groupsPerUnit l * u) : ¬ StoresUnit .encode l n u (codeByteIndex .encode l n c g) := by
  have before : g / groupsPerUnit l < u := Nat.div_lt_of_lt_mul hg
  intro again
  exact before.ne (storesUnit_unique (before.trans hu) hu (storesUnit_codeByteIndex l n c g) again)

section
variable {l : Layout} {T : StepTable} {xs : Nat → Sample} {n u g : Nat} {c : Fin 4} {t : State}

theorem EncodesStream.nibbles_unitOf (h : EncodesStream l T xs n c u t) (length : t.nl.toNat = n)
    (hu : u < unitCount .encode l n) (hg : g < groupsPerUnit l * u) :
    codeNibble l c g ((unitOf .encode l t u).outByte (2 * codeByteIndex .encode l n c g)) = encodedCode T xs g := by
  rw [outByte_unitOf_of_not_stores, h.nibbles g hg]
  rw [Nat.mul_div_cancel_left _ two_pos, length]
  exact not_storesUnit_earlierByte c hu hg

/-- A mono unit adds two samples to the stream, whose codes make one byte. -/
theorem EncodesStream.unitOf_mono (h : EncodesStream .mono T xs n 0 u t) (table : t.params.stepTable = T)
    (input : sampleAt .mono t.readSample 0 = xs) (length : t.nl.toNat = n) (hu : u < unitCount .encode .mono n) :
    EncodesStream .mono T xs n 0 (u + 1) (unitOf .encode .mono t u) := by
  have sample (g : Nat) : t.readSample g = xs g := by simp [← input, sampleAt, channelCount]
  have slot : t.slot 0 = encodedSlot T xs (2 * u) := h.slot
  have byte : (unitOf .encode .mono t u).outByte (2 * u) =
      pack (encodedCode T xs (2 * u)) (encodedCode T xs (2 * u + 1)) := by
    rw [outByte_unitOf_encode_mono, table, slot, sample, sample]; rfl
  have even : 2 * u / 2 = u := by omega
  have odd : (2 * u + 1) / 2 = u := by omega
  refine ⟨by rw [slot_unitOf_encode_mono, table, slot, sample, sample]; rfl, fun g hg => ?_⟩
  obtain old | rfl | rfl : g < 2 * u ∨ g = 2 * u ∨ g = 2 * u + 1 := by
    simp only [groupsPerUnit] at hg; omega
  · exact h.nibbles_unitOf length hu old
  · rw [codeNibble_mono_even, codeByteIndex, even, byte, lo_pack]
  · rw [codeNibble_mono_odd, codeByteIndex, odd, byte, hi_pack]

/-- A unit adds the samples it takes to the stream of their slot. -/
theorem EncodesStream.unitOf (h : EncodesStream l T xs n c u t) (hc : c.val < channelCount l)
    (table : t.params.stepTable = T) (input : sampleAt l t.readSample c = xs) (length : t.nl.toNat = n)
    (hu : u < unitCount .encode l n) : EncodesStream l T xs n c (u + 1) (unitOf .encode l t u) := by
  by_cases hl : l = .mono
  · subst hl
    obtain rfl : c = 0 := Fin.ext (Nat.lt_one_iff.1 hc)
    exact h.unitOf_mono table input length hu
  · have per := groupsPerUnit_of_ne_mono hl
    have slot := h.slot
    rw [per, one_mul] at slot
    refine ⟨?_, fun g hg => ?_⟩
    · rw [slot_unitOf_encode t u hl hc, slot, table, input, per, one_mul, ← encodedSlot]
    obtain old | rfl : g < groupsPerUnit l * u ∨ g = u := by rw [per] at hg ⊢; omega
    · exact h.nibbles_unitOf length hu old
    · rw [← length, codeNibble_unitOf_encode t g hl hc (length ▸ hu), slot, table, input, ← encodedCode]

end

theorem Midway.sampleAt_eq {op : Op} {l : Layout} {s t : State} {k : Nat} (h : Midway op l s k t) (c : Nat) :
    sampleAt l t.readSample c = sampleAt l s.readSample c := by
  rw [funext h.readSample]

theorem encodesStream_afterUnits {l : Layout} {c : Fin 4} (s : State) {k : Nat} (hc : c.val < channelCount l)
    (hk : k ≤ unitCount .encode l s.inLen.toNat) :
    EncodesStream l s.params.stepTable (sampleAt l s.readSample c) s.inLen.toNat c k (afterUnits .encode l s k) := by
  induction k with
  | zero => exact ⟨slot_accept s .encode l c, fun g hg => absurd hg (Nat.not_lt_zero g)⟩
  | succ k ih =>
    have hm := midway_afterUnits .encode l s k (by have := unitCount_lt .encode l s; omega)
    obtain ⟨slot, nibbles⟩ := (ih (by omega)).unitOf hc (congrArg Params.stepTable hm.params) (hm.sampleAt_eq c)
      (congrArg BitVec.toNat hm.nl) (by omega)
    exact ⟨slot, nibbles⟩

/-! ## Channel independence (R161) -/

/-- Settles O38: the slot and its samples are those of its code stream, which is the same in both runs. -/
theorem decodeChannelIndependence : Obligations.DecodeChannelIndependence := by
  intro l c s s' h h' notMono hc table length codes k hk
  have hk' : k ≤ unitCount .decode l s'.inLen.toNat := length ▸ hk
  refine ⟨_, _, execTimes_units .decode l h k hk, execTimes_units .decode l h' k hk', ?_⟩
  have stream := decodesStream_afterUnits s hc hk
  have stream' := decodesStream_afterUnits s' hc hk'
  have per := groupsPerUnit_of_ne_mono notMono
  have same (m : Nat) (hm : m ≤ k) :
      decodedSlot s.params.stepTable (codeAt l s.readCode s.inLen.toNat c) m =
        decodedSlot s'.params.stepTable (codeAt l s'.readCode s'.inLen.toNat c) m :=
    table ▸ decodedSlot_congr fun g hg => codes g (by omega)
  refine ⟨?_, fun g hg => ?_⟩
  · rw [stream.slot, stream'.slot, per, one_mul, same k le_rfl]
  · have within : g < groupsPerUnit l * k := by rwa [per, one_mul]
    rw [stream.cells g within, stream'.cells g within, same (g + 1) hg]

/-- The byte that O39 names for the `g`-th code of a stereo or quad slot. -/
theorem codeByteIndex_of_ne_mono {l : Layout} (h : l ≠ .mono) (op : Op) (n c g : Nat) :
    codeByteIndex op l n c g =
      if l = .quad ∧ c ≥ 2 then clIndex op n g else if l = .quad then lrIndex g else g := by
  cases l with
  | mono => exact absurd rfl h
  | stereo => rfl
  | quad => simp only [codeByteIndex, true_and, if_true, ge_iff_le, ← not_lt, ite_not]

/-- Settles O39: the slot and its nibbles are those of its sample stream, which is the same in both runs. -/
theorem encodeChannelIndependence : Obligations.EncodeChannelIndependence := by
  intro l c s s' h h' notMono hc table length samples k hk
  have hk' : k ≤ unitCount .encode l s'.inLen.toNat := length ▸ hk
  refine ⟨_, _, execTimes_units .encode l h k hk, execTimes_units .encode l h' k hk', ?_⟩
  have stream := encodesStream_afterUnits s hc hk
  have stream' := encodesStream_afterUnits s' hc hk'
  have per := groupsPerUnit_of_ne_mono notMono
  refine ⟨?_, fun g hg => ?_⟩
  · rw [stream.slot, stream'.slot, per, one_mul, table]
    exact encodedSlot_congr fun i hi => samples i (by omega)
  · have within : g < groupsPerUnit l * k := by rwa [per, one_mul]
    have sameCode : encodedCode s.params.stepTable (sampleAt l s.readSample c) g =
        encodedCode s'.params.stepTable (sampleAt l s'.readSample c) g :=
      table ▸ encodedCode_congr fun i hi => samples i (by omega)
    have nibble := (stream.nibbles g within).trans (sameCode.trans (stream'.nibbles g within).symm)
    rw [← length, codeByteIndex_of_ne_mono notMono, codeNibble_of_ne_mono notMono, codeNibble_of_ne_mono notMono] at nibble
    exact nibble

end Sys2Proof.Machine
end

section
/-! The round trip (O40): a DECODE of the bytes of an ENCODE reads each code where the encoder stored it (R153), and so takes
every slot through the encoder's states (R162). -/

namespace Sys2Proof.Machine

/-! ## The bytes of an ENCODE as a code stream (R153) -/

/-- The final partial block splits at the same place in both directions (R150, R153). -/
theorem clIndex_outLength_encode (n g : Nat) : clIndex .decode (outLength .encode .quad n) g = clIndex .encode n g := by
  have blocks : fullBlocks .decode (outLength .encode .quad n) = fullBlocks .encode n := by
    simp only [fullBlocks, outLength, outPerUnit, unitCount]; omega
  have tail : tailHalf .decode (outLength .encode .quad n) = tailHalf .encode n := by
    simp only [tailHalf, outLength, outPerUnit, unitCount]; omega
  rw [clIndex, clIndex, halfLength, halfLength, blocks, tail]

theorem codeByteIndex_outLength_encode (l : Layout) (n c g : Nat) :
    codeByteIndex .decode l (outLength .encode l n) c g = codeByteIndex .encode l n c g := by
  cases l with
  | mono | stereo => rfl
  | quad => rw [codeByteIndex, codeByteIndex, clIndex_outLength_encode]

theorem unitCount_outLength_encode (l : Layout) (n : Nat) :
    unitCount .decode l (outLength .encode l n) = unitCount .encode l n := by
  cases l <;> simp only [unitCount, outLength, outPerUnit] <;> omega

/-- A code lies in the output of the ENCODE that made it. -/
theorem codeByteIndex_lt_outLength {l : Layout} {n g : Nat} (c : Nat) (hg : g < groupsPerUnit l * unitCount .encode l n) :
    codeByteIndex .encode l n c g < outLength .encode l n :=
  (exists_storesUnit_iff .encode l n _).1
    ⟨g / groupsPerUnit l, Nat.div_lt_of_lt_mul hg, storesUnit_codeByteIndex l n c g⟩

/-! ## The trajectory (R122, R162) -/

/-- The codes of an ENCODE take the decoder's slot where the encoder's samples took the encoder's (R122). -/
theorem decodedSlot_eq_encodedSlot {T : StepTable} {codes : Nat → Code} {xs : Nat → Sample} {m : Nat}
    (h : ∀ g < m, codes g = encodedCode T xs g) : decodedSlot T codes m = encodedSlot T xs m := by
  induction m with
  | zero => rfl
  | succ m ih => rw [decodedSlot, ih fun g hg => h g (by omega), h m (by omega)]; rfl

theorem slot_afterUnits_of_unused (op : Op) {l : Layout} (s : State) (k : Nat) {c : Fin 4} (hc : channelCount l ≤ c.val) :
    (afterUnits op l s k).slot c = Slot.zero := by
  induction k with
  | zero => exact slot_accept s op l c
  | succ k ih => rw [afterUnits, slot_advanceUnit, slot_unitOf_of_unused op _ _ hc, ih]

theorem slots_ext {s t : State} (h : ∀ c, s.slot c = t.slot c) : s.slots = t.slots :=
  Vector.ext fun i hi => h ⟨i, hi⟩

theorem channelCount_le_four (l : Layout) : channelCount l ≤ 4 := by
  cases l <;> decide

/-- `OUT_LEN` is never more than the output length. -/
theorem outLen_afterCommand_le (op : Op) (l : Layout) (s : State) :
    (afterCommand op l s).outLen.toNat ≤ outLength op l s.inLen.toNat := by
  rw [afterCommand, State.outLen_complete, (midway_allUnits op l s).nl, BitVec.toNat_ofNat]
  exact Nat.mod_le _ _

section
variable {l : Layout} {s s' : State}

/-- A DECODE of the bytes of a completed ENCODE reads the codes the encoder made. -/
theorem codeAt_of_encoded {c : Fin 4} {g : Nat} (hc : c.val < channelCount l)
    (hg : g < groupsPerUnit l * unitCount .encode l s.inLen.toNat)
    (bytes : ∀ j < outLength .encode l s.inLen.toNat, s'.readCode j = (afterCommand .encode l s).outByte (2 * j)) :
    codeAt l s'.readCode (outLength .encode l s.inLen.toNat) c g =
      encodedCode s.params.stepTable (sampleAt l s.readSample c) g := by
  rw [codeAt_eq_codeNibble _ _ _ hc, codeByteIndex_outLength_encode, bytes _ (codeByteIndex_lt_outLength c hg),
    afterCommand, outByte_complete]
  exact (encodesStream_afterUnits s hc le_rfl).nibbles g hg

/-- A DECODE of the encoder's codes has the encoder's slots after every unit. -/
theorem slots_afterUnits_of_codes (table : s'.params.stepTable = s.params.stepTable)
    (units : unitCount .decode l s'.inLen.toNat = unitCount .encode l s.inLen.toNat)
    (codes : ∀ c : Fin 4, c.val < channelCount l → ∀ g < groupsPerUnit l * unitCount .encode l s.inLen.toNat,
      codeAt l s'.readCode s'.inLen.toNat c g = encodedCode s.params.stepTable (sampleAt l s.readSample c) g)
    {u : Nat} (hu : u ≤ unitCount .encode l s.inLen.toNat) :
    (afterUnits .decode l s' u).slots = (afterUnits .encode l s u).slots := by
  refine slots_ext fun c => ?_
  by_cases hc : c.val < channelCount l
  · rw [(decodesStream_afterUnits s' hc (units ▸ hu)).slot, (encodesStream_afterUnits s hc hu).slot, table]
    exact decodedSlot_eq_encodedSlot fun g hg => codes c hc g (hg.trans_le (Nat.mul_le_mul_left _ hu))
  · rw [slot_afterUnits_of_unused _ _ _ (Nat.not_lt.1 hc), slot_afterUnits_of_unused _ _ _ (Nat.not_lt.1 hc)]

end

/-- Settles O40: the decoder reads each code where the encoder stored it, and so follows its slots. -/
theorem decodeFollowsTheEncoder : Obligations.DecodeFollowsTheEncoder := by
  intro l s t s' h h' capacity table run length bytes
  obtain rfl : afterCommand .encode l s = t := by simpa [execTimes_command .encode l h] using run
  rw [outLen_afterCommand .encode l h capacity] at bytes
  have length' : s'.inLen.toNat = outLength .encode l s.inLen.toNat := by
    rw [length, outLen_afterCommand .encode l h capacity]
  have units : unitCount .decode l s'.inLen.toNat = unitCount .encode l s.inLen.toNat := by
    rw [length', unitCount_outLength_encode]
  have codes (c : Fin 4) (hc : c.val < channelCount l) (g : Nat)
      (hg : g < groupsPerUnit l * unitCount .encode l s.inLen.toNat) :
      codeAt l s'.readCode s'.inLen.toNat c g = encodedCode s.params.stepTable (sampleAt l s.readSample c) g :=
    length' ▸ codeAt_of_encoded hc hg bytes
  have slots {u : Nat} (hu : u ≤ unitCount .encode l s.inLen.toNat) := slots_afterUnits_of_codes table units codes hu
  refine ⟨units, fun u hu => ?_, _, execTimes_command .decode l h', ?_, fun c g hc hg => ?_⟩
  · exact ⟨_, _, execTimes_units .encode l h u hu, execTimes_units .decode l h' u (units ▸ hu), slots hu⟩
  · rw [afterCommand, units]
    exact slots le_rfl
  · have within : g < groupsPerUnit l * unitCount .decode l s'.inLen.toNat := by
      have bound := outLen_afterCommand_le .decode l s'
      rw [outLength, outPerUnit_decode, mul_assoc] at bound
      exact hg.trans_le (Nat.div_le_of_le_mul bound)
    have channel : c < 4 := hc.trans_le (channelCount_le_four l)
    have stream := decodesStream_afterUnits (c := ⟨c, channel⟩) s' hc le_rfl
    rw [afterCommand, outCell_complete, stream.cells g within, table]
    exact congrArg Slot.pred (decodedSlot_eq_encodedSlot fun i hi => codes ⟨c, channel⟩ hc i (by rw [← units]; omega))

end Sys2Proof.Machine
end

section
/-! The framer's counts and geometry (O16 to O19): the length of the output, and the addresses of a quad stream. -/

namespace Sys2Proof.Machine

/-! ## The output length (R143, R149) -/

/-- The output of a quad DECODE in terms of its input: twice the whole byte pairs, a last odd byte being dropped. -/
theorem outLength_decode_quad (n : Nat) : outLength .decode .quad n = 2 * (n - (n % 16384) % 2) := by
  simp only [outLength, outPerUnit, unitCount]
  omega

/-- Settles O16, row by row of the table. -/
theorem outputLengthOfInputLength : Obligations.OutputLengthOfInputLength := fun n =>
  ⟨rfl, rfl, outLength_decode_quad n, Nat.one_mul _, Nat.one_mul _, rfl, fun op l => outLength_le op l n⟩

/-- Settles O18: the two readings are arithmetic on `n`, and the sample count is the output length of a quad DECODE. -/
theorem sizeCorrectionGivesInputLength : Obligations.SizeCorrectionGivesInputLength := by
  intro n positive blocks size lastBlockSize realSize
  have whole : realSize = n := by omega
  refine ⟨whole, by omega, fun even => ?_, fun odd => ?_⟩
  · rw [outLength_decode_quad, even, whole, Nat.sub_zero]
  · rw [outLength_decode_quad, odd, whole]

/-! ## The quad addresses (R147, R153) -/

/-- A group's place in its block is before the half length (R146). -/
theorem mod_lt_halfLength {op : Op} {n g : Nat} (hg : g < unitCount op .quad n) :
    g % 8192 < halfLength op n (g / 8192) := by
  obtain ⟨hU, tail⟩ := unitCount_quad op n
  rcases halfLength_cases op n (g / 8192) with ⟨block, half⟩ | ⟨block, half⟩ <;> omega

theorem halfLength_le (op : Op) (n β : Nat) : halfLength op n β ≤ 8192 := by
  obtain ⟨_, tail⟩ := unitCount_quad op n
  rcases halfLength_cases op n β with ⟨_, half⟩ | ⟨_, half⟩ <;> omega

/-- Settles O17: the addresses of one group by its place in the block, and each index by the group that holds it, which is
the only one. -/
theorem quadAddressesCoverTheStream : Obligations.QuadAddressesCoverTheStream := by
  intro op n U
  refine ⟨fun g hg => ?_, fun j hj => ?_, fun g hg => ⟨lrIndex_lt hg, clIndex_lt hg⟩, ?_⟩
  · have place : g % 8192 < halfLength op n (g / 8192) := mod_lt_halfLength hg
    have half := halfLength_le op n (g / 8192)
    unfold lrIndex clIndex
    omega
  · obtain ⟨g, hg, rfl | rfl⟩ := exists_quad_group hj
    · exact .inl ⟨g, hg, rfl, fun _ _ same => lrIndex_injective same, fun _ _ => (lrIndex_ne_clIndex hg).symm⟩
    · exact .inr ⟨g, hg, rfl, fun _ hg' same => clIndex_inj hg' hg same, fun _ hg' => lrIndex_ne_clIndex hg'⟩
  · rintro rfl
    have length : outLength .decode .quad n = 4 * U := rfl
    rw [outLength_decode_quad] at length
    omega

/-- Settles O19: an ENCODE writes pairs of bytes, so a DECODE of them drops nothing and splits the last block alike. -/
theorem encodeGeometryIsDecodeGeometry : Obligations.EncodeGeometryIsDecodeGeometry := by
  refine fun n => ⟨unitCount_outLength_encode .quad n, ?_, fun g _ => clIndex_outLength_encode n g⟩
  have even : outLength .encode .quad n % 16384 % 2 = 0 := by simp only [outLength, outPerUnit, unitCount]; omega
  rw [truncated, even]
  rfl

end Sys2Proof.Machine
end

section
/-! One step of a running command (O22 to O28, O51): what each unit leaves in the slots and stores, its frame, the completion,
and the core's turn that takes the step. -/

namespace Sys2Proof.Machine

/-! ## The frame of a unit (R160) -/

/-- An ENCODE stores code bytes, which leave the high byte of every cell (R50, R52). -/
theorem outByte_unitOf_encode_high {l : Layout} {s : State} {u a : Nat} (high : a % 2 = 1) :
    (unitOf .encode l s u).outByte a = s.outByte a := by
  have other (j : Nat) : a ≠ 2 * j := by omega
  cases l <;>
    simp only [unitOf, encMonoUnit, encStereoUnit, encQuadUnit, State.enc, outByte_writeCode, outByte_setSlot, other,
      if_false]

/-- A unit changes no more than `UnitFrame` says, of any set of byte addresses that holds those the unit stores to. -/
theorem unitFrame_unitOf {op : Op} {l : Layout} {s : State} {stored : Nat → Bool}
    (more : s.ucnt.toNat < unitCount op l s.nl.toNat)
    (stores : ∀ a, StoresUnit op l s.nl.toNat s.ucnt.toNat (a / 2) → (op = .encode → a % 2 = 0) → stored a = true) :
    UnitFrame s (unitOf op l s s.ucnt.toNat).advanceUnit stored := by
  obtain ⟨params, cmd, inLen, status, outLen, opl, chl, nl, ucnt, inp, inpEpoch, outEpoch, host, schedule⟩ :=
    unitOf_frame op l s s.ucnt.toNat
  refine ⟨params, ⟨cmd, inLen, status, outLen⟩, ⟨opl, chl, nl⟩, ?_, ⟨inp, inpEpoch⟩, ⟨outEpoch, fun a unstored => ?_⟩,
    ⟨host, schedule⟩⟩
  · rw [State.ucnt_advanceUnit, ucnt, ucnt_succ more]
  · rw [outByte_advanceUnit]
    by_cases high : op = .encode ∧ a % 2 = 1
    · obtain ⟨rfl, odd⟩ := high
      exact outByte_unitOf_encode_high odd
    · refine outByte_unitOf_of_not_stores fun inUnit => ?_
      have isStored : stored a = true := stores a inUnit fun encode =>
        (Nat.mod_two_eq_zero_or_one a).resolve_right fun odd => high ⟨encode, odd⟩
      simp [isStored] at unstored

/-! ## The units of DECODE (R144, R145, R148) -/

/-- Mono uses slot 0 alone. -/
theorem channelCount_mono_le_of_ne_zero {c : Fin 4} (h : c ≠ 0) : channelCount .mono ≤ c.val :=
  Nat.one_le_iff_ne_zero.2 fun zero => h (Fin.ext zero)

/-- Settles O22, by the mono unit's slot 0, its two cells and its frame. -/
theorem decMonoUnitStep : Obligations.DecMonoUnitStep := by
  intro s running more u first second
  have slot0 : (unitOf .decode .mono s u).slot 0 = second := slot_unitOf_decode_mono s u
  obtain ⟨cell0, cell1⟩ := outCell_unitOf_decode_mono s u
  rw [slot0] at cell1
  refine ⟨_, exec_unit running more, ?_⟩
  simp only [slot_advanceUnit, outCell_advanceUnit]
  refine ⟨slot0, fun c hc => slot_unitOf_of_unused .decode s u (channelCount_mono_le_of_ne_zero hc), cell0, cell1,
    unitFrame_unitOf more fun a stored _ => ?_⟩
  have unit : a / 2 / 2 = u := stored
  simp only [Bool.or_eq_true, beq_iff_eq]
  omega

/-- Settles O23, by the stereo unit on slots 0 and 1, their cells and its frame. -/
theorem decStereoUnitStep : Obligations.DecStereoUnitStep := by
  intro s running more u left right
  have used0 : (0 : Fin 4).val < channelCount .stereo := by decide
  have used1 : (1 : Fin 4).val < channelCount .stereo := by decide
  have slot0 : (unitOf .decode .stereo s u).slot 0 = left := slot_unitOf_decode s u (by decide) used0
  have slot1 : (unitOf .decode .stereo s u).slot 1 = right := slot_unitOf_decode s u (by decide) used1
  have cell0 := outCell_unitOf_decode s u (by decide) used0
  have cell1 := outCell_unitOf_decode s u (by decide) used1
  rw [slot0] at cell0
  rw [slot1] at cell1
  refine ⟨_, exec_unit running more, ?_⟩
  simp only [slot_advanceUnit, outCell_advanceUnit]
  refine ⟨slot0, slot1, slot_unitOf_of_unused .decode s u (by decide), slot_unitOf_of_unused .decode s u (by decide),
    cell0, cell1, unitFrame_unitOf more fun a stored _ => ?_⟩
  have unit : a / 2 / 2 = u := stored
  simp only [Bool.or_eq_true, beq_iff_eq]
  omega

/-- Settles O24, by the quad unit on each of the four slots, their cells and its frame. -/
theorem decQuadUnitStep : Obligations.DecQuadUnitStep := by
  intro s running more g bLR bCL T
  have slot (c : Fin 4) : (unitOf .decode .quad s g).slot c = update T (s.slot c) (codeAt .quad s.readCode s.nl.toNat c g) :=
    slot_unitOf_decode s g (by decide) c.isLt
  have cell (c : Fin 4) : (unitOf .decode .quad s g).outCell (4 * g + c) = ((unitOf .decode .quad s g).slot c).pred :=
    outCell_unitOf_decode s g (by decide) c.isLt
  refine ⟨_, exec_unit running more, ?_⟩
  simp only [slot_advanceUnit, outCell_advanceUnit]
  refine ⟨slot 0, slot 1, slot 2, slot 3, cell, unitFrame_unitOf more fun a stored _ => ?_⟩
  have unit : a / 2 / 4 = g := stored
  rw [beq_iff_eq]
  omega

/-! ## The units of ENCODE (R151, R152, R154) -/

theorem eq_pack_of_nibbles {b : Byte} {low high : Code} (hlow : lo b = low) (hhigh : hi b = high) : b = pack low high := by
  rw [← hlow, ← hhigh, pack_lo_hi]

/-- Settles O25, by the mono unit's slot 0, its byte and its frame. -/
theorem encMonoUnitStep : Obligations.EncMonoUnitStep := by
  intro s running more u first second
  refine ⟨_, exec_unit running more, ?_⟩
  simp only [slot_advanceUnit, outByte_advanceUnit]
  refine ⟨slot_unitOf_encode_mono s u,
    fun c hc => slot_unitOf_of_unused .encode s u (channelCount_mono_le_of_ne_zero hc), outByte_unitOf_encode_mono s u,
    unitFrame_unitOf more fun a stored lowByte => ?_⟩
  have unit : a / 2 = u := stored
  have even := lowByte rfl
  rw [beq_iff_eq]
  omega

/-- Settles O26, by the stereo unit on slots 0 and 1, the nibbles of its byte and its frame. -/
theorem encStereoUnitStep : Obligations.EncStereoUnitStep := by
  intro s running more u left right
  have used0 : (0 : Fin 4).val < channelCount .stereo := by decide
  have used1 : (1 : Fin 4).val < channelCount .stereo := by decide
  have slot0 : (unitOf .encode .stereo s u).slot 0 = left.2 := slot_unitOf_encode s u (by decide) used0
  have slot1 : (unitOf .encode .stereo s u).slot 1 = right.2 := slot_unitOf_encode s u (by decide) used1
  have low : lo ((unitOf .encode .stereo s u).outByte (2 * u)) = left.1 :=
    codeNibble_unitOf_encode s u (by decide) used0 more
  have high : hi ((unitOf .encode .stereo s u).outByte (2 * u)) = right.1 :=
    codeNibble_unitOf_encode s u (by decide) used1 more
  refine ⟨_, exec_unit running more, ?_⟩
  simp only [slot_advanceUnit, outByte_advanceUnit]
  refine ⟨slot0, slot1, slot_unitOf_of_unused .encode s u (by decide), slot_unitOf_of_unused .encode s u (by decide),
    eq_pack_of_nibbles low high, unitFrame_unitOf more fun a stored lowByte => ?_⟩
  have unit : a / 2 = u := stored
  have even := lowByte rfl
  rw [beq_iff_eq]
  omega

/-- Settles O27, by the quad unit on each of the four slots, the nibbles of its two bytes and its frame. -/
theorem encQuadUnitStep : Obligations.EncQuadUnitStep := by
  intro s running more g T left right center lfe
  have slot (c : Fin 4) : (unitOf .encode .quad s g).slot c = (encodeSample T (s.slot c) (sampleAt .quad s.readSample c g)).2 :=
    slot_unitOf_encode s g (by decide) c.isLt
  have nibble (c : Fin 4) := codeNibble_unitOf_encode (l := .quad) (c := c) s g (by decide) c.isLt more
  refine ⟨_, exec_unit running more, ?_⟩
  simp only [slot_advanceUnit, outByte_advanceUnit]
  refine ⟨slot 0, slot 1, slot 2, slot 3, eq_pack_of_nibbles (nibble 0) (nibble 1),
    eq_pack_of_nibbles (nibble 2) (nibble 3), unitFrame_unitOf more fun a stored lowByte => ?_⟩
  have unit : a / 2 = lrIndex g ∨ a / 2 = clIndex .encode s.nl.toNat g := stored
  have even := lowByte rfl
  simp only [Bool.or_eq_true, beq_iff_eq]
  omega

/-! ## The completion and the core's turn (R160, R184, R216) -/

/-- `STATUS` after a completion as a number (R184). -/
theorem doneStatus_eq (truncated : Bool) : doneStatus truncated = if truncated then 0x00000012#32 else 0x00000002#32 := by
  cases truncated <;> decide

/-- Settles O28: with no unit left the step is `State.complete`. -/
theorem completionStep : Obligations.CompletionStep := by
  intro op l s running allDone
  rw [exec_noUnit running allDone.not_lt, State.complete, doneStatus_eq]

theorem step_of_core {s : State} (h : s.nextAgent = .core) : step s = coreTurn s.takeTurn := by
  simp only [step, turn, h]

/-- A busy core's turn is a step of the command it runs. -/
theorem coreTurn_of_running {op : Op} {l : Layout} {s : State} (h : s.running op l) :
    coreTurn s = exec (.ofCommand op l) s := by
  obtain ⟨busy, rfl, rfl⟩ := h
  rw [coreTurn, if_pos busy, State.latchedInstr]

/-- Settles O51: the core's turn with the schedule's entry used, at a busy core and at an idle one. -/
theorem stepRunsTheLatchedCommand : Obligations.StepRunsTheLatchedCommand := by
  intro s core
  rw [step_of_core core]
  exact ⟨fun op l running => coreTurn_of_running (s := s.takeTurn) running, fun idle => coreTurn_of_idle idle⟩

end Sys2Proof.Machine
end

section
/-! A whole command (O31, O32, O35): it is busy for its units and then done, what it leaves is `RUN` of its input, and an input
shorter than a unit leaves nothing. -/

namespace Sys2Proof.Machine

/-! ## How long a command runs (R185) -/

theorem Midway.busy {op : Op} {l : Layout} {s t : State} {k : Nat} (h : Midway op l s k t) : t.busy = true :=
  (running_of_midway h).1

theorem Midway.not_done {op : Op} {l : Layout} {s t : State} {k : Nat} (h : Midway op l s k t) : t.done = false := by
  rw [State.done, h.status]
  decide

theorem busy_afterCommand (op : Op) (l : Layout) (s : State) : (afterCommand op l s).busy = false :=
  busy_complete _ op l

theorem done_afterCommand (op : Op) (l : Layout) (s : State) : (afterCommand op l s).done = true :=
  done_complete _ op l

/-- Settles O31: the state after `k` units is under way, and after the completion it is done. -/
theorem commandCompletesAfterItsUnits : Obligations.CommandCompletesAfterItsUnits := by
  intro op l s h
  refine ⟨fun k hk => ?_, ⟨_, execTimes_command op l h, busy_afterCommand op l s, done_afterCommand op l s⟩,
    (unitCount_le op l _).trans h.2⟩
  have underWay := midway_afterUnits op l s k (hk.trans_lt (unitCount_lt op l s))
  exact ⟨_, execTimes_units op l h k hk, underWay.busy, underWay.not_done, underWay.ucnt⟩

/-! ## Inputs shorter than a unit (R188) -/

theorem unitCount_of_lt_inPerUnit {op : Op} {l : Layout} {n : Nat} (short : n < inPerUnit op l) : unitCount op l n = 0 := by
  cases op <;> cases l <;> simp only [inPerUnit, unitCount] at short ⊢ <;> omega

/-- An input shorter than a unit is dropped, unless there is none. -/
theorem truncated_of_lt_inPerUnit {op : Op} {l : Layout} {n : Nat} (short : n < inPerUnit op l) :
    truncated op l n = decide (0 < n) := by
  cases op <;> cases l <;> simp only [inPerUnit] at short <;> interval_cases n <;> rfl

theorem inPerUnit_pos (op : Op) (l : Layout) : 0 < inPerUnit op l := by
  cases op <;> cases l <;> decide

/-- The two steps of a command whose input is shorter than a unit: the START and the completion. -/
theorem execTimes_two_of_short {op : Op} {l : Layout} {s : State} (h : s.startable)
    (short : s.inLen.toNat < inPerUnit op l) :
    ∃ t, execTimes (.ofCommand op l) 2 s = .next t ∧ t.outLen = 0#32 ∧
      t.status = doneStatus (decide (0 < s.inLen.toNat)) ∧ t.out = [] := by
  have noUnit := unitCount_of_lt_inPerUnit short
  have run := execTimes_command op l h
  rw [noUnit] at run
  refine ⟨_, run, ?_, ?_, ?_⟩
  · rw [afterCommand, State.outLen_complete, (midway_allUnits op l s).nl, outLength, noUnit, Nat.mul_zero]
  · rw [status_afterCommand, truncated_of_lt_inPerUnit short]
  · rw [afterCommand, noUnit]
    rfl

/-- Settles O35: both inputs are shorter than a unit, and only the second one drops anything. -/
theorem emptyAndShortInputs : Obligations.EmptyAndShortInputs := by
  refine fun op l s h => ⟨fun empty => ?_, fun nonempty short => ?_⟩
  · simpa [empty, doneStatus_eq] using execTimes_two_of_short h (empty.trans_lt (inPerUnit_pos op l))
  · simpa [nonempty, doneStatus_eq] using execTimes_two_of_short h short

/-! ## The output of a command is that of `RUN` (R186) -/

/-- A cell of a completed DECODE is the sample of its channel's stream (R157). -/
theorem outCell_afterCommand_decode {l : Layout} {s : State} {j : Nat} (hj : j < outLength .decode l s.inLen.toNat) :
    (afterCommand .decode l s).outCell j = decodedSample s.params.stepTable l s.readCode s.inLen.toNat j := by
  have positive : 0 < channelCount l := by cases l <;> decide
  have channel : j % channelCount l < channelCount l := Nat.mod_lt j positive
  have group : j / channelCount l < groupsPerUnit l * unitCount .decode l s.inLen.toNat := by
    rw [outLength, outPerUnit_decode, mul_assoc] at hj
    exact Nat.div_lt_of_lt_mul hj
  have stream := decodesStream_afterUnits (c := ⟨_, channel.trans_le (channelCount_le_four l)⟩) s channel le_rfl
  have cell := stream.cells _ group
  rw [Nat.div_add_mod] at cell
  rw [afterCommand, outCell_complete, cell, decodedSample]

section
variable (T : StepTable) (xs : Nat → Sample) {n g : Nat}

/-- The (L, R) byte of a group in `RUN`'s output (R147, R154). -/
theorem encodedByte_lrIndex (hg : g < unitCount .encode .quad n) :
    encodedByte T .quad xs n (lrIndex g) =
      pack (encodedCode T (sampleAt .quad xs 0) g) (encodedCode T (sampleAt .quad xs 1) g) := by
  have place := mod_lt_halfLength hg
  have block : lrIndex g / 16384 = g / 8192 := by unfold lrIndex; omega
  have offset : lrIndex g % 16384 = g % 8192 := by unfold lrIndex; omega
  simp only [encodedByte, block, offset, place, if_true, Nat.div_add_mod]

/-- The (C, LFE) byte of a group in `RUN`'s output (R147, R154). -/
theorem encodedByte_clIndex (hg : g < unitCount .encode .quad n) :
    encodedByte T .quad xs n (clIndex .encode n g) =
      pack (encodedCode T (sampleAt .quad xs 2) g) (encodedCode T (sampleAt .quad xs 3) g) := by
  have place := mod_lt_halfLength hg
  have half := halfLength_le .encode n (g / 8192)
  have block : clIndex .encode n g / 16384 = g / 8192 := by unfold clIndex; omega
  have offset : clIndex .encode n g % 16384 = halfLength .encode n (g / 8192) + g % 8192 := by unfold clIndex; omega
  simp only [encodedByte, block, offset, Nat.not_lt.2 (Nat.le_add_right _ _), if_false, Nat.add_sub_cancel_left,
    Nat.div_add_mod]

end

/-- A byte of a completed ENCODE holds the codes of its channels' streams. -/
theorem outByte_afterCommand_encode {l : Layout} {s : State} {j : Nat} (hj : j < outLength .encode l s.inLen.toNat) :
    (afterCommand .encode l s).outByte (2 * j) = encodedByte s.params.stepTable l s.readSample s.inLen.toNat j := by
  rw [afterCommand, outByte_complete]
  have stream (c : Fin 4) (hc : c.val < channelCount l) := encodesStream_afterUnits s hc le_rfl
  cases l with
  | mono =>
    have unit : j < unitCount .encode .mono s.inLen.toNat := by rwa [outLength, outPerUnit, one_mul] at hj
    obtain ⟨_, nibbles⟩ := stream 0 (by decide)
    have low := nibbles (2 * j) (Nat.mul_lt_mul_of_pos_left unit two_pos)
    have high := nibbles (2 * j + 1) (by simp only [groupsPerUnit]; omega)
    rw [codeNibble_mono_even, codeByteIndex, Nat.mul_div_cancel_left j two_pos] at low
    rw [codeNibble_mono_odd, codeByteIndex, show (2 * j + 1) / 2 = j by omega] at high
    exact eq_pack_of_nibbles low high
  | stereo =>
    exact eq_pack_of_nibbles ((stream 0 (by decide)).nibbles j hj) ((stream 1 (by decide)).nibbles j hj)
  | quad =>
    obtain ⟨g, hg, place⟩ := exists_quad_group hj
    have within : g < groupsPerUnit .quad * unitCount .encode .quad s.inLen.toNat := by rwa [groupsPerUnit, one_mul]
    rcases place with rfl | rfl
    · rw [encodedByte_lrIndex _ _ hg]
      exact eq_pack_of_nibbles ((stream 0 (by decide)).nibbles g within) ((stream 1 (by decide)).nibbles g within)
    · rw [encodedByte_clIndex _ _ hg]
      exact eq_pack_of_nibbles ((stream 2 (by decide)).nibbles g within) ((stream 3 (by decide)).nibbles g within)

/-- Each output unit of a completed command is that of `RUN`. -/
theorem outUnit_afterCommand {op : Op} {l : Layout} {s : State} {j : Nat} (hj : j < outLength op l s.inLen.toNat) :
    (afterCommand op l s).outUnit j = runUnit s.params.stepTable op l s.inCell s.inLen.toNat j := by
  have opl := opl_afterCommand op l s
  cases op with
  | decode =>
    rw [outUnit_of_decode opl, ← State.outCell, outCell_afterCommand_decode hj, funext (readCode_eq_inCell s)]
    rfl
  | encode =>
    rw [outUnit_of_encode opl, outByte_afterCommand_encode hj]
    rfl

theorem trunc_afterCommand (op : Op) (l : Layout) (s : State) :
    (afterCommand op l s).trunc = truncated op l s.inLen.toNat := by
  rw [State.trunc, status_afterCommand]
  cases truncated op l s.inLen.toNat <;> decide

/-- What the host finds after a command is `RUN` of its input. -/
theorem result_afterCommand (op : Op) (l : Layout) {s : State} (h : s.startable)
    (capacity : s.params.inCapacity ≤ 2147483647) :
    (afterCommand op l s).result = run s.params.stepTable op l.channels s.inCell s.inLen.toNat := by
  have units : (List.range (outLength op l s.inLen.toNat)).map (afterCommand op l s).outUnit =
      (List.range (outLength op l s.inLen.toNat)).map (runUnit s.params.stepTable op l s.inCell s.inLen.toNat) :=
    List.map_congr_left fun j hj => outUnit_afterCommand (List.mem_range.1 hj)
  rw [State.result, if_pos (err_afterCommand op l s), outLen_afterCommand op l h capacity, units, trunc_afterCommand, run,
    layoutOfChannels_eq_some.2 rfl]

/-- Settles O32: the completed command has the result of `RUN`, and no step of it changed what is not the command's. -/
theorem commandStepsComputeRun : Obligations.CommandStepsComputeRun := by
  intro op l s h capacity
  have units := midway_allUnits op l s
  exact ⟨_, execTimes_command op l h, busy_afterCommand op l s, result_afterCommand op l h capacity, units.inp,
    units.inpEpoch, units.inLen, units.params, units.host, units.schedule⟩

end Sys2Proof.Machine
end

section
/-! What the facade leaves (O21, O29, O33, O34): `STATUS` and `OUT_LEN` of each completed command, and the START of
`UNSUPPORTED_LAYOUT`. -/

namespace Sys2Proof.Machine

/-! ## The completed commands (R190 to R195, R201) -/

/-- A completed command leaves the output length of R143, and `TRUNC` set exactly under the truncation condition of R142. -/
theorem outLen_and_status_of_command (op : Op) (l : Layout) {s : State} (h : s.startable)
    (capacity : s.params.inCapacity ≤ 2147483647) {len : Nat} {dropped : Prop}
    (length : outLength op l s.inLen.toNat = len) (condition : truncated op l s.inLen.toNat = true ↔ dropped) :
    ∃ t, execTimes (.ofCommand op l) (1 + (unitCount op l s.inLen.toNat + 1)) s = .next t ∧ t.outLen.toNat = len ∧
      (dropped → t.status = 0x00000012#32) ∧ (¬ dropped → t.status = 0x00000002#32) := by
  have status := status_afterCommand op l s
  rw [doneStatus_eq] at status
  exact ⟨_, execTimes_command op l h, (outLen_afterCommand op l h capacity).trans length,
    fun yes => status.trans (if_pos (condition.2 yes)), fun no => status.trans (if_neg (mt condition.1 no))⟩

/-- Settles O34: each command with its row of R143 and its truncation condition of R142. -/
theorem statusAndLengthOfEachCommand : Obligations.StatusAndLengthOfEachCommand := by
  intro s h capacity n leaves
  refine ⟨?decMono, ?decStereo, ?decQuad, ?encMono, ?encStereo, ?encQuad⟩
  case decMono => exact outLen_and_status_of_command .decode .mono h capacity rfl Bool.false_eq_true.to_iff
  case decStereo => exact outLen_and_status_of_command .decode .stereo h capacity rfl Bool.false_eq_true.to_iff
  case decQuad => exact outLen_and_status_of_command .decode .quad h capacity rfl beq_iff_eq
  case encMono => exact outLen_and_status_of_command .encode .mono h capacity (Nat.one_mul _) beq_iff_eq
  case encStereo => exact outLen_and_status_of_command .encode .stereo h capacity (Nat.one_mul _) beq_iff_eq
  case encQuad => exact outLen_and_status_of_command .encode .quad h capacity rfl bne_iff_ne

/-! ## The START of an unsupported or too long command (R181, R182, R206) -/

/-- Settles O21: the START step is `State.raiseUnsupportedLayout`, with `CMD` and `STATUS` as numbers. -/
theorem unsupportedLayoutCompletesAtOnce : Obligations.UnsupportedLayoutCompletesAtOnce := by
  intro op c s h _
  rw [exec_unsupportedLayout op c h, State.raiseUnsupportedLayout, encode_unsupportedLayout, commandWord_eq_ofNat,
    unsupportedStatus_eq]

/-- Settles O29: the length is checked before the channel count. -/
theorem tooLongInputRefused : Obligations.TooLongInputRefused :=
  fun i _ idle long => exec_inputTooLong i idle long

/-- The error completion is read as `Error(UnsupportedChannelLayout)` (R187, R200). -/
theorem result_raiseUnsupportedLayout (s : State) (op : Op) (c : BitVec 8) :
    (s.raiseUnsupportedLayout op c).result = .unsupportedChannelLayout := by
  have err : (s.raiseUnsupportedLayout op c).err = 1#2 := by
    rw [State.err, State.status_raiseUnsupportedLayout]
    decide
  rw [State.result, err, if_neg (by decide)]

/-- `RUN` of a channel count other than 1, 2 and 4 is the error, whatever the input (R186). -/
theorem run_of_illegal {c : BitVec 8} (illegal : legalChannels c = false) (T : StepTable) (op : Op)
    (cells : Nat → BitVec 16) (n : Nat) : run T op c cells n = .unsupportedChannelLayout := by
  rw [run, layoutOfChannels_eq_none.2 illegal]

/-- Settles O33: the command and `RUN` both end in the error. -/
theorem unsupportedCommandComputesRun : Obligations.UnsupportedCommandComputesRun := by
  intro op c s h illegal
  have error := result_raiseUnsupportedLayout s op c
  exact ⟨_, exec_unsupportedLayout op c h, error.trans (run_of_illegal illegal ..).symm, error⟩

end Sys2Proof.Machine
end

section
/-! A second command while one runs (O30): `exec` of it is a write of `CMD` that R242 item 1 forbids. -/

namespace Sys2Proof.Machine

/-- While the core runs a command, a `DEC.*` or `ENC.*` command of another operation or layout is a second START (R206). -/
theorem exec_ofCommand_notLatched {op : Op} {l : Layout} {s : State} (busy : s.busy = true)
    (other : ¬ (s.opl = op ∧ s.chl = l)) :
    exec (.ofCommand op l) s = .fault (.hostProtocolViolation (.writeRegWhileBusy 0)) := by
  rw [exec_ofCommand, command, if_pos busy, if_neg other]

/-- `UNSUPPORTED_LAYOUT` is never the running command, so at a busy core it is a second START (R206). -/
theorem exec_unsupportedLayout_busy {s : State} (op : Op) (c : BitVec 8) (busy : s.busy = true) :
    exec (.unsupportedLayout op c) s = .fault (.hostProtocolViolation (.writeRegWhileBusy 0)) :=
  if_pos busy

/-- Settles O30: a command whose row is not the latched one differs from it in the operation or the layout, or is
`UNSUPPORTED_LAYOUT`. -/
theorem otherCommandWhileBusyFaults : Obligations.OtherCommandWhileBusyFaults := by
  intro i s busy other
  obtain ⟨op, l, rfl⟩ | ⟨op, c, rfl⟩ := i.ofCommand_or_unsupportedLayout
  · have notLatched : ¬ (s.opl = op ∧ s.chl = l) := by
      rintro ⟨rfl, rfl⟩
      exact other rfl
    exact exec_ofCommand_notLatched busy notLatched
  · exact exec_unsupportedLayout_busy op c busy

end Sys2Proof.Machine
end
